-- ==== Sys2Proof/Word.lean ====
section
/-! DEFINITION. The widths of the block (R9, R13): the 256-bit word, the byte of a hash message, the 16-bit lane,
the 5-bit register address. -/

namespace Sys2Proof

/-- `W` = 256 bits: every architectural register, the port data, a digest (R9). -/
abbrev Word := BitVec 256

/-- One byte of a message given to `HASH` (R15, R71). -/
abbrev Byte := BitVec 8

/-- `LANE` = 16 bits (R9, R72). -/
abbrev Lane := BitVec 16

/-- `AW` = 5 bits: an address of the register space (R9, R60). -/
abbrev RegAddr := BitVec 5

end Sys2Proof
end

