-- ==== Sys2Proof/Config.lean ====
section
/-! DEFINITION. The parameters of an LACC instance (R9). Those of kind "fixed" are constants; `HASH`, the only open
one (R10), is a constant with no body: nothing can be proved of its values. -/

namespace Sys2Proof.Config

/-- Lanes per word, `LPW` (R9). -/
abbrev lanesPerWord : Nat := 16

/-- Least and greatest dimension, `NMIN` and `NMAX` (R9). -/
abbrev nMin : Nat := 1
@[inherit_doc nMin] abbrev nMax : Nat := 64

/-- Least and greatest modulus, `QMIN` and `QMAX` (R9). -/
abbrev qMin : Nat := 2
@[inherit_doc qMin] abbrev qMax : Nat := 65521

/-- The modulus used when the caller gives none, `QDEFAULT` (R9, R43). -/
abbrev qDefault : Nat := 65521

/-- Bytes in the big-endian encoding of each hash-input field, `ENC` (R9, R122, D4). -/
abbrev enc : Nat := 32

/-- `HASH` (R9, R10, U1): a total function from byte sequences to 256-bit values, of which nothing else is
assumed. Every function of the model that hashes takes the hash as an argument; the machine passes this one. Log 1. -/
opaque hash : List Byte → Word

end Sys2Proof.Config
end

