-- ==== Sys2Proof/Syntax.lean ====
section
/-! DEFINITION. The commands, the port request and the instructions: one constructor of `Instr` per row of
spec/opcode_table.json. -/

namespace Sys2Proof

/-- The four operations the field `OP` can name (R94). -/
inductive Op where
  | acc
  | upd
  | xorall
  | drow
  deriving DecidableEq, Repr

/-- A decoded command word: opcode and `QDEF` (R92). It is also what `CUR` holds (R35). -/
structure Command where
  op : Op
  /-- 1 = the default modulus, 0 = register `Q` (R93). -/
  qdef : Bool
  deriving DecidableEq, Repr

/-- A request at the port, `(write, addr, wdata)` (R63, R98). -/
structure Request where
  write : Bool
  addr : RegAddr
  wdata : Word
  deriving DecidableEq, Repr

/-- The instructions: the four command words of format `CW` and the two transactions of format `PORT`.
`xorall` carries the `QDEF` bit of its word, which must be 0 (R93): see `Instr.wellFormed`. Log 7. `rd` carries no
data: the `wdata` of a read is ignored (R98). -/
inductive Instr where
  /-- `ACC` (R158). -/
  | acc (qdef : Bool)
  /-- `UPD` (R198). -/
  | upd (qdef : Bool)
  /-- `XORALL` (R188). -/
  | xorall (qdef : Bool)
  /-- `DROW` (R132). -/
  | drow (qdef : Bool)
  /-- `RD` (R66). -/
  | rd (addr : RegAddr)
  /-- `WR` (R67). -/
  | wr (addr : RegAddr) (data : Word)
  deriving DecidableEq, Repr

/-- An encoded instruction in one of the two formats of R90. -/
inductive Encoded where
  /-- A command word, 256 bits (R91). -/
  | cw (w : Word)
  /-- A packed port request, 262 bits (R98). -/
  | port (p : BitVec 262)
  deriving DecidableEq, Repr

end Sys2Proof
end

