-- ==== Sys2Proof/WellFormed.lean ====
section
/-! DEFINITION. Which instructions are well formed. The types already bound addresses (5 bits) and data (256 bits);
the one check left is that `XORALL` takes no modulus, so its `QDEF` must be 0 (R92, R93). -/

namespace Sys2Proof

/-- A command is well formed when it is one of the seven of R92. -/
def Command.wellFormed (c : Command) : Bool :=
  match c.op with
  | .acc => true
  | .upd => true
  | .xorall => !c.qdef
  | .drow => true

/-- An instruction is well formed when some encoding means it (R92, R98). -/
def Instr.wellFormed (i : Instr) : Bool :=
  match i with
  | .acc _ => true
  | .upd _ => true
  | .xorall qdef => !qdef
  | .drow _ => true
  | .rd _ => true
  | .wr _ _ => true

end Sys2Proof
end

