-- ==== Sys2Proof/Decode.lean ====
section
/-! DEFINITION. Decoding of command words (R91, R92) and port requests (R98), total and rejecting by name, and after
it the encoder, from the same tables. -/

namespace Sys2Proof

/-- Why a 256-bit word is `Illegal` (R96). -/
inductive Reject where
  /-- A bit of `Z1` (7:4) or `Z2` (255:9) is set. -/
  | reservedBits
  /-- `OP` is 0 or 5..15. -/
  | reservedOpcode (op : Nat)
  /-- `OP` = 3 with `QDEF` = 1. -/
  | xorallWithQdef
  deriving DecidableEq, Repr

/-- Bits 3:0, `OP` (R91). -/
def opField (w : Word) : BitVec 4 := w.extractLsb' 0 4

/-- Bits 7:4, `Z1` (R91). -/
def z1Field (w : Word) : BitVec 4 := w.extractLsb' 4 4

/-- Bit 8, `QDEF` (R91). -/
def qdefField (w : Word) : Bool := w.getLsbD 8

/-- Bits 255:9, `Z2` (R91). -/
def z2Field (w : Word) : BitVec 247 := w.extractLsb' 9 247

/-- `decode(w)` of R92. -/
def decodeCommand (w : Word) : Except Reject Command :=
  if z2Field w ≠ 0 ∨ z1Field w ≠ 0 then .error .reservedBits
  else
    match (opField w).toNat, qdefField w with
    | 1, qdef => .ok ⟨.acc, qdef⟩
    | 2, qdef => .ok ⟨.upd, qdef⟩
    | 3, false => .ok ⟨.xorall, false⟩
    | 3, true => .error .xorallWithQdef
    | 4, qdef => .ok ⟨.drow, qdef⟩
    | op, _ => .error (.reservedOpcode op)

/-- The instruction a command stands for. -/
def Command.toInstr (c : Command) : Instr :=
  match c.op with
  | .acc => .acc c.qdef
  | .upd => .upd c.qdef
  | .xorall => .xorall c.qdef
  | .drow => .drow c.qdef

/-- The fields of a packed port request (R98). -/
def Request.ofBits (p : BitVec 262) : Request :=
  { write := p.getLsbD 261, addr := p.extractLsb' 256 5, wdata := p.extractLsb' 0 256 }

/-- The transaction a request asks for: `write` selects `WR` or `RD`; the `wdata` of a read is ignored (R98). -/
def Request.toInstr (t : Request) : Instr :=
  if t.write then .wr t.addr t.wdata else .rd t.addr

/-- Decoding in either format. Every port request is legal (R98). -/
def decode (e : Encoded) : Except Reject Instr :=
  match e with
  | .cw w => (decodeCommand w).map Command.toInstr
  | .port p => .ok (Request.ofBits p).toInstr

/-- The number in field `OP` (R94). -/
def Op.code (o : Op) : Word :=
  match o with
  | .acc => 1
  | .upd => 2
  | .xorall => 3
  | .drow => 4

/-- The command word of a command: `OP` in bits 3:0, `QDEF` in bit 8, all else 0 (R91). -/
def encodeCommand (c : Command) : Word :=
  c.op.code ||| (if c.qdef then 0x100 else 0)

/-- `{write, addr, wdata}`, most significant field first (R98). -/
def Request.toBits (t : Request) : BitVec 262 :=
  (BitVec.ofBool t.write ++ t.addr ++ t.wdata).cast rfl

/-- The request of a write of `w` to `CMD` (R33, R62): how a command word reaches the block (R99). -/
def cmdWrite (w : Word) : Request := { write := true, addr := 0x00, wdata := w }

/-- The words of an instruction; a read is written with data 0. -/
def encode (i : Instr) : Encoded :=
  match i with
  | .acc qdef => .cw (encodeCommand ⟨.acc, qdef⟩)
  | .upd qdef => .cw (encodeCommand ⟨.upd, qdef⟩)
  | .xorall qdef => .cw (encodeCommand ⟨.xorall, qdef⟩)
  | .drow qdef => .cw (encodeCommand ⟨.drow, qdef⟩)
  | .rd addr => .port (Request.toBits ⟨false, addr, 0⟩)
  | .wr addr data => .port (Request.toBits ⟨true, addr, data⟩)

/-- The format of a row of spec/opcode_table.json is told by its length: 256 bits for `CW`, more for `PORT` (262 bits,
written as 66 hexadecimal digits). A number that does not fit its format is none. Log 9. -/
def tableWord (nbits w : Nat) : Option Encoded :=
  if nbits ≤ 256 then
    if w < 2 ^ 256 then some (.cw (BitVec.ofNat 256 w)) else none
  else
    if w < 2 ^ 262 then some (.port (BitVec.ofNat 262 w)) else none

/-- What the decoder reads from a word numbered as spec/opcode_table.json numbers it. -/
def decodeTableWord (nbits w : Nat) : Option Instr :=
  match tableWord nbits w with
  | some e => (decode e).toOption
  | none => none

/-- The port request that delivers such a word: a `CW` word is the data of a write to `CMD` (R90, R99). -/
def tableRequest (nbits w : Nat) : Request :=
  if nbits ≤ 256 then cmdWrite (BitVec.ofNat 256 w) else Request.ofBits (BitVec.ofNat 262 w)

end Sys2Proof
end

