-- ==== Sys2Proof/Machine/State.lean ====
section
/-! DEFINITION. Everything the spec gives the machine (R20), as plain data, with the port and what the outside world
will do next; the reasons a step can stop; the state after reset (R46). -/

namespace Sys2Proof.Machine

/-- `PHASE` (R34). -/
inductive Phase where
  | idle
  | busy
  deriving DecidableEq, Repr

/-- The sequencer scratch of a direct implementation (R39): informative as to its form, and never observable. Log 3. -/
structure Scratch where
  /-- The current row's seed. -/
  rowSeed : Word
  /-- The current block digest. -/
  digest : Word
  /-- Block index 0..3. -/
  b : BitVec 2
  /-- Row. -/
  r : BitVec 7
  /-- Column. -/
  c : BitVec 7
  /-- The running sum, always below 2q (R152). -/
  sum : BitVec 17
  /-- The elements computed so far. -/
  y : Vector Lane 64
  deriving DecidableEq, Repr

/-- What happens next (R12): the Host offers a transaction, the Engine takes its step, or a Reset occurs. Log 4. -/
inductive Turn where
  | host (t : Request)
  | engine
  | reset
  deriving DecidableEq, Repr

/-- One LACC instance (R20) with its port. -/
structure State where
  /-- `NROWS`, the dimension N (R22). -/
  nrows : Word
  /-- `Q`, the modulus (R23). -/
  q : Word
  /-- `STEP`, stepIndex (R24). -/
  stepIdx : Word
  /-- `SEED` (R25). -/
  seed : Word
  /-- `X`, inputBits or newInput (R26). -/
  x : Word
  /-- `ROW` (R27). -/
  row : Word
  /-- `A0..A3`, a packed vector given by the Host (R28). -/
  a0 : Word
  a1 : Word
  a2 : Word
  a3 : Word
  /-- `R0..R3`, the packed result of the last successful ACC, UPD or DROW (R30). -/
  r0 : Word
  r1 : Word
  r2 : Word
  r3 : Word
  /-- `XR`, the result of the last XORALL (R31). -/
  xr : Word
  /-- `STATUS` (R32). -/
  status : Word
  /-- `PHASE` (R34). -/
  phase : Phase
  /-- `CUR`, meaningful only while BUSY (R35). -/
  cur : Command
  /-- The sequencer scratch (R39). -/
  scratch : Scratch
  /-- The outstanding transaction: offered, not yet accepted (R63, R64, R65). Log 5. -/
  held : Option Request
  /-- What the transaction performed last returned to the Host (`rsp_valid`, `rsp_rdata`, R63). Log 6. -/
  rsp : Option Word
  /-- What happens next, oldest first; the outside world's own. Log 4. -/
  agenda : List Turn
  deriving DecidableEq, Repr

/-- The machine has no fault: "Nothing else fails" (R215). No constructor, so no step faults. -/
inductive Fault where
  deriving DecidableEq, Repr

/-- Why a step has no meaning. -/
inductive Refusal where
  /-- An instruction with no meaning yet: none is left. Raised by nothing. Safe. -/
  | notModelled (mnemonic : String)
  /-- Raised by the Engine's step in a BUSY state whose N or q is outside its range, where `deriveRow` "is not
  defined and never needed" (R127, U6). R44 validates before BUSY, so no run reaches it. Safe. Log 8. -/
  | engineOperandsOutOfRange
  deriving DecidableEq, Repr

/-- The outcome of a step of this machine. -/
abbrev Result := Host.Outcome State Fault Refusal

/-- The scratch after reset: R46 leaves it unspecified, and no rule reads it. DESIGN CHOICE. Log 3. -/
def Scratch.reset : Scratch :=
  { rowSeed := 0, digest := 0, b := 0, r := 0, c := 0, sum := 0, y := Vector.replicate 64 0 }

/-- The state after reset (R46): Q = 65521, every other register 0, PHASE = IDLE. `cur` and `scratch` are unspecified
there (DESIGN CHOICE, logs 2 and 3); nothing is offered. -/
def State.reset : State :=
  { nrows := 0, q := 65521, stepIdx := 0, seed := 0, x := 0, row := 0
    a0 := 0, a1 := 0, a2 := 0, a3 := 0
    r0 := 0, r1 := 0, r2 := 0, r3 := 0
    xr := 0, status := 0, phase := .idle, cur := ⟨.acc, false⟩, scratch := .reset
    held := none, rsp := none, agenda := [] }

end Sys2Proof.Machine
end

