-- ==== Sys2Proof/Machine/Flags.lean ====
section
/-! DEFINITION. The flags of the block: the five bits of `STATUS` (R32, R37), the values the steps write, and the
outcomes they report (R210, R216). -/

namespace Sys2Proof.Machine

/-- `STATUS.BUSY`, bit 0 (R32). -/
def State.busyFlag (s : State) : Bool := s.status.getLsbD 0

/-- `STATUS.DONE`, bit 1 (R32). -/
def State.doneFlag (s : State) : Bool := s.status.getLsbD 1

/-- `STATUS.ERR_DIM`, bit 2 (R32). -/
def State.errDimFlag (s : State) : Bool := s.status.getLsbD 2

/-- `STATUS.ERR_MOD`, bit 3 (R32). -/
def State.errModFlag (s : State) : Bool := s.status.getLsbD 3

/-- `STATUS.ERR_ILL`, bit 4 (R32). -/
def State.errIllFlag (s : State) : Bool := s.status.getLsbD 4

/-- What an accepted valid command writes to `STATUS`: BUSY (R44). -/
def statusBusy : Word := 0x01

/-- What a completion writes to `STATUS`: DONE, no error (R45). -/
def statusOk : Word := 0x02

/-- What an illegal command word writes to `STATUS`: DONE and ERR_ILL (R44, R96). -/
def statusIllegal : Word := 0x12

/-- What the two parameter errors write to `STATUS`, each its own bit (R44, R144). -/
def statusError (dimErr modErr : Bool) : Word :=
  0x02 ||| (if dimErr then 0x04 else 0) ||| (if modErr then 0x08 else 0)

/-- The seven values `STATUS` can take (R32). -/
def legalStatus : List Word := [0x00, 0x01, 0x02, 0x06, 0x0A, 0x0E, 0x12]

/-- The two error kinds of the software functions (R142, R143). -/
inductive ParamError where
  | dimension
  | modulus
  deriving DecidableEq, Repr

/-- The single error kind a host wrapper reports from `STATUS`: the dimension first (R144, R216). -/
def wrapperError (status : Word) : Option ParamError :=
  if status.getLsbD 2 then some .dimension
  else if status.getLsbD 3 then some .modulus
  else none

end Sys2Proof.Machine
end

