-- ==== Sys2Proof/Machine/Operands.lean ====
section
/-! DEFINITION. The registers by name and by address (R21, R29, R62), the parameters of a command and their ranges
(R43, R141 to R143), and which registers each command reads and writes (R41, R95). -/

namespace Sys2Proof.Machine

/-- The ten operand registers (R21). -/
inductive OperandReg where
  | nrows | q | step | seed | x | row | a0 | a1 | a2 | a3
  deriving DecidableEq, Repr

/-- The five result registers (R29). -/
inductive ResultReg where
  | r0 | r1 | r2 | r3 | xr
  deriving DecidableEq, Repr

/-- What an address of the register space names (R62). -/
inductive Reg where
  | cmd
  | status
  | operand (o : OperandReg)
  | result (r : ResultReg)
  | reserved
  deriving DecidableEq, Repr

/-- The address map of R62. -/
def regAt (addr : RegAddr) : Reg :=
  match addr.toNat with
  | 0x00 => .cmd
  | 0x01 => .status
  | 0x02 => .operand .nrows
  | 0x03 => .operand .q
  | 0x04 => .operand .step
  | 0x05 => .operand .seed
  | 0x06 => .operand .x
  | 0x07 => .operand .row
  | 0x08 => .operand .a0
  | 0x09 => .operand .a1
  | 0x0A => .operand .a2
  | 0x0B => .operand .a3
  | 0x0C => .result .r0
  | 0x0D => .result .r1
  | 0x0E => .result .r2
  | 0x0F => .result .r3
  | 0x10 => .result .xr
  | _ => .reserved

/-- The address of `CMD` and of `STATUS` (R62). -/
def cmdAddr : RegAddr := 0x00
@[inherit_doc cmdAddr] def statusAddr : RegAddr := 0x01

/-- The address of an operand register (R62). -/
def OperandReg.addr (o : OperandReg) : RegAddr :=
  match o with
  | .nrows => 0x02
  | .q => 0x03
  | .step => 0x04
  | .seed => 0x05
  | .x => 0x06
  | .row => 0x07
  | .a0 => 0x08
  | .a1 => 0x09
  | .a2 => 0x0A
  | .a3 => 0x0B

/-- The address of a result register (R62). -/
def ResultReg.addr (r : ResultReg) : RegAddr :=
  match r with
  | .r0 => 0x0C
  | .r1 => 0x0D
  | .r2 => 0x0E
  | .r3 => 0x0F
  | .xr => 0x10

/-- The value of an operand register. -/
def State.operand (s : State) (o : OperandReg) : Word :=
  match o with
  | .nrows => s.nrows
  | .q => s.q
  | .step => s.stepIdx
  | .seed => s.seed
  | .x => s.x
  | .row => s.row
  | .a0 => s.a0
  | .a1 => s.a1
  | .a2 => s.a2
  | .a3 => s.a3

/-- The value of a result register. -/
def State.result (s : State) (r : ResultReg) : Word :=
  match r with
  | .r0 => s.r0
  | .r1 => s.r1
  | .r2 => s.r2
  | .r3 => s.r3
  | .xr => s.xr

/-- The packed container: four words, 64 lanes (R9, R18, R170). -/
structure Container where
  w0 : Word
  w1 : Word
  w2 : Word
  w3 : Word
  deriving DecidableEq, Repr

/-- The packed vector in `A0..A3` (R28). -/
def State.aVec (s : State) : Container := ⟨s.a0, s.a1, s.a2, s.a3⟩

/-- The packed vector in `R0..R3` (R30). -/
def State.rVec (s : State) : Container := ⟨s.r0, s.r1, s.r2, s.r3⟩

/-- A valid dimension: an integer in [1,64] (R141). -/
abbrev Dim := { n : Nat // Config.nMin ≤ n ∧ n ≤ Config.nMax }

/-- A valid modulus: an integer in [2,65521] (R141). -/
abbrev Modulus := { q : Nat // Config.qMin ≤ q ∧ q ≤ Config.qMax }

/-- The dimension a word holds, if it is valid; compared as a 256-bit unsigned integer (R142, R166). -/
def dim? (n : Word) : Option Dim :=
  if h : Config.nMin ≤ n.toNat ∧ n.toNat ≤ Config.nMax then some ⟨n.toNat, h⟩ else none

/-- The modulus a word holds, if it is valid (R143, R166). -/
def modulus? (q : Word) : Option Modulus :=
  if h : Config.qMin ≤ q.toNat ∧ q.toNat ≤ Config.qMax then some ⟨q.toNat, h⟩ else none

/-- `dimErr` of R142. -/
def dimErr (n : Word) : Bool := n.toNat < Config.nMin || Config.nMax < n.toNat

/-- `modErr` of R143. -/
def modErr (q : Word) : Bool := q.toNat < Config.qMin || Config.qMax < q.toNat

/-- The effective modulus (R43). -/
def State.qEff (s : State) (qdef : Bool) : Word :=
  if qdef then BitVec.ofNat 256 Config.qDefault else s.q

end Sys2Proof.Machine

namespace Sys2Proof
open Machine

/-- The operand registers a command reads (R41). -/
def Command.reads (c : Command) : List OperandReg :=
  let q : List OperandReg := if c.qdef then [] else [.q]
  match c.op with
  | .acc => [.nrows, .step, .seed, .x] ++ q
  | .upd => [.nrows, .step, .seed, .x, .a0, .a1, .a2, .a3] ++ q
  | .drow => [.nrows, .step, .seed, .row] ++ q
  | .xorall => [.a0, .a1, .a2, .a3]

/-- The result registers a command writes when its outcome is OK (R41). -/
def Command.writes (c : Command) : List ResultReg :=
  match c.op with
  | .acc => [.r0, .r1, .r2, .r3]
  | .upd => [.r0, .r1, .r2, .r3]
  | .drow => [.r0, .r1, .r2, .r3]
  | .xorall => [.xr]

end Sys2Proof
end

