-- ==== Sys2Proof/Machine/Ops.lean ====
section
/-! DEFINITION. The named operations over registers: the updates of State, the register space (R66 to R69), holding and
accepting a transaction (R64), error outcomes (R211: what another manual calls taking an exception; there is nothing to
return from, R218), the acceptance of a command (R44), Reset (R240), and the bit and byte helpers (R15, R123). -/

namespace Sys2Proof.Machine

/-- The transaction just performed returned `v` to the Host, or nothing (R63). -/
def State.respond (s : State) (v : Option Word) : State := { s with rsp := v }

/-- A held transaction "has no effect and returns nothing" until it is performed (R64). -/
def State.hold (s : State) (t : Request) : State := { s with held := some t, rsp := none }

/-- `raise` (R211): an error outcome writes `STATUS` and nothing else; `PHASE` stays IDLE. -/
def State.raise (s : State) (status : Word) : State := { s with status := status }

/-- A valid command is accepted: `CUR`, `PHASE <- BUSY`, `STATUS <- 0x01` (R44). -/
def State.start (s : State) (c : Command) : State :=
  { s with cur := c, phase := .busy, status := statusBusy }

/-- The command ends with outcome OK: `STATUS <- 0x02`, `PHASE <- IDLE` (R45). -/
def State.finish (s : State) : State := { s with status := statusOk, phase := .idle }

/-- `(R0, R1, R2, R3) <- w` (R45). -/
def State.setResult (s : State) (w : Container) : State :=
  { s with r0 := w.w0, r1 := w.w1, r2 := w.w2, r3 := w.w3 }

/-- `XR <- v` (R45). -/
def State.setXr (s : State) (v : Word) : State := { s with xr := v }

/-- What the sequencer leaves in its scratch (R39). -/
def State.setScratch (s : State) (t : Scratch) : State := { s with scratch := t }

/-- The turns still to come; the outside world's own. -/
def State.setAgenda (s : State) (as : List Turn) : State := { s with agenda := as }

/-- Nothing is outstanding: the held transaction is performed now (R64). -/
def State.release (s : State) : State := { s with held := none }

/-- A write to an operand register stores all 256 bits, with no check and no other effect (R21, R67). -/
def State.setOperand (s : State) (o : OperandReg) (v : Word) : State :=
  match o with
  | .nrows => { s with nrows := v }
  | .q => { s with q := v }
  | .step => { s with stepIdx := v }
  | .seed => { s with seed := v }
  | .x => { s with x := v }
  | .row => { s with row := v }
  | .a0 => { s with a0 := v }
  | .a1 => { s with a1 := v }
  | .a2 => { s with a2 := v }
  | .a3 => { s with a3 := v }

/-- `RegRead(addr)` (R66): `CMD` and the reserved addresses read 0 (R68). -/
def State.regRead (s : State) (addr : RegAddr) : Word :=
  match regAt addr with
  | .cmd => 0
  | .status => s.status
  | .operand o => s.operand o
  | .result r => s.result r
  | .reserved => 0

/-- `RegWrite(addr, v)` (R67) for every address but `CMD`: writes to `STATUS`, to a result register and to a reserved
address are ignored (R69). -/
def State.regWrite (s : State) (addr : RegAddr) (v : Word) : State :=
  match regAt addr with
  | .cmd => s
  | .status => s
  | .operand o => s.setOperand o v
  | .result _ => s
  | .reserved => s

/-- Whether the block takes the transaction now (R64): in IDLE every one, in BUSY a read of `STATUS` alone. -/
def State.accepts (s : State) (t : Request) : Bool :=
  s.phase == .idle || (!t.write && t.addr == statusAddr)

/-- A transaction offered at the port: accepted and performed, or held (R64). One that is performed returns nothing
unless its effect says so. -/
def transact (t : Request) (effect : State → State) (s : State) : Result :=
  if s.accepts t then .next (effect (s.respond none)) else .next (s.hold t)

/-- The acceptance of a decoded command (R44, after `decode`): XORALL is not validated; the other three are, on both
parameters, independently (R144). -/
def accept (c : Command) (s : State) : State :=
  match c.op with
  | .xorall => s.start c
  | _ =>
    let de := dimErr s.nrows
    let me := modErr (s.qEff c.qdef)
    if de || me then s.raise (statusError de me) else s.start c

/-- The Reset event (R240, R241): every piece of state takes its reset value, the command in progress is abandoned and
a held transaction is discarded. What the outside world does next is its own. Log 11. -/
def State.resetEvent (s : State) : State := { State.reset with agenda := s.agenda }

/-- `be32(v)`: 32 bytes, most significant first (R15). -/
def be32 (v : Word) : List Byte :=
  (List.range Config.enc).map fun i => v.extractLsb' (8 * (Config.enc - 1 - i)) 8

/-- `lane(d, k)`: bits `[16k+15 : 16k]` (R123). -/
def lane (d : Word) (k : Nat) : Lane := d.extractLsb' (16 * k) 16

end Sys2Proof.Machine
end

