-- ==== Sys2Proof/Machine/Mrd.lean ====
section
/-! DEFINITION. MRD, the matrix-row deriver (R120 to R131). Dimension and modulus carry their ranges: `deriveRow` is
not defined outside them (R127, U6). -/

namespace Sys2Proof.Machine

/-- `rowSeed(seed, stepIndex, row)`: the hash of a 96-byte message (R121). -/
def rowSeed (hash : List Byte → Word) (seed stepIdx row : Word) : Word :=
  hash (be32 seed ++ be32 stepIdx ++ be32 row)

/-- `blockDigest(rowSeed, b)`: the hash of a 64-byte message (R122). -/
def blockDigest (hash : List Byte → Word) (rs : Word) (b : Nat) : Word :=
  hash (be32 rs ++ be32 (BitVec.ofNat 256 b))

/-- The coefficient of column `c`, from lane `c mod 16` of block `c div 16` (R124, R130). -/
def coef (hash : List Byte → Word) (seed stepIdx row : Word) (c : Nat) (q : Modulus) : Nat :=
  (lane (blockDigest hash (rowSeed hash seed stepIdx row) (c / Config.lanesPerWord))
    (c % Config.lanesPerWord)).toNat % q.val

/-- `deriveRow(seed, stepIndex, row, N, q)` (R124). -/
def deriveRow (hash : List Byte → Word) (seed stepIdx row : Word) (n : Dim) (q : Modulus) : List Nat :=
  (List.range n.val).map fun c => coef hash seed stepIdx row c q

end Sys2Proof.Machine
end

