-- ==== Sys2Proof/Machine/Pck.lean ====
section
/-! DEFINITION. PCK, the output packer (R170 to R178). -/

namespace Sys2Proof.Machine

/-- Word `i` of the container. There is none at 4 and above; the model reads 0 there, and no rule reads it. -/
def Container.word (w : Container) (i : Nat) : Word :=
  match i with
  | 0 => w.w0
  | 1 => w.w1
  | 2 => w.w2
  | 3 => w.w3
  | _ => 0

/-- `word[i] |= v`. -/
def Container.orWord (w : Container) (i : Nat) (v : Word) : Container :=
  match i with
  | 0 => { w with w0 := w.w0 ||| v }
  | 1 => { w with w1 := w.w1 ||| v }
  | 2 => { w with w2 := w.w2 ||| v }
  | 3 => { w with w3 := w.w3 ||| v }
  | _ => w

/-- The all-zero container. -/
def Container.zero : Container := ⟨0, 0, 0, 0⟩

/-- `word[r div 16] | ((y & 0xFFFF) << ((r mod 16) × 16))`, the loop body of R171. -/
def Container.insert (w : Container) (r y : Nat) : Container :=
  w.orWord (r / Config.lanesPerWord)
    ((BitVec.ofNat 256 y &&& 0xFFFF) <<< ((r % Config.lanesPerWord) * 16))

/-- The loop of R171 from index `r` on. -/
def packFrom : Nat → List Nat → Container → Container
  | _, [], w => w
  | r, y :: ys, w => packFrom (r + 1) ys (w.insert r y)

/-- `pack(y[0..N-1])` (R171), for N ≤ 64; elements beyond the 64th have no lane and are dropped. Log 12. -/
def pack (ys : List Nat) : Container := packFrom 0 ys .zero

/-- `unpack(word[0..3], N)` (R175). -/
def unpack (w : Container) (n : Nat) : List Nat :=
  (List.range n).map fun r => (lane (w.word (r / Config.lanesPerWord)) (r % Config.lanesPerWord)).toNat

end Sys2Proof.Machine
end

