-- ==== Sys2Proof/Machine/Mac.lean ====
section
/-! DEFINITION. MAC, the modular accumulator: `accumulateVec` (R150), the two step-by-step methods of the same value
(R152, R153), and the public function `accumulate` (R159). -/

namespace Sys2Proof.Machine

/-- `Σ a[c]` over the columns, numbered from `c`, whose bit of `x` is 1 (R150). -/
def selectedSum (x : Word) : Nat → List Nat → Nat
  | _, [] => 0
  | c, a :: as => (if x.getLsbD c then a else 0) + selectedSum x (c + 1) as

/-- The single conditional subtraction of R152. -/
def condSub (q s : Nat) : Nat := if q ≤ s then s - q else s

/-- The running sum of R152 over the columns numbered from `c`, starting at `s`. -/
def runningSum (q : Nat) (x : Word) : Nat → Nat → List Nat → Nat
  | _, s, [] => s
  | c, s, a :: as => runningSum q x (c + 1) (if x.getLsbD c then condSub q (s + a) else s) as

/-- The alternative of R153: a full remainder after each addition. -/
def remainderSum (q : Nat) (x : Word) : Nat → Nat → List Nat → Nat
  | _, s, [] => s
  | c, s, a :: as => remainderSum q x (c + 1) (if x.getLsbD c then (s + a) % q else s) as

/-- Element `y[r]` of R150; the row index is a 256-bit value. -/
def accumulateAt (hash : List Byte → Word) (x stepIdx : Word) (n : Dim) (seed : Word) (q : Modulus) (r : Nat) : Nat :=
  selectedSum x 0 (deriveRow hash seed stepIdx (BitVec.ofNat 256 r) n q) % q.val

/-- `accumulateVec(x, stepIndex, N, seed, q)` (R150). -/
def accumulateVec (hash : List Byte → Word) (x stepIdx : Word) (n : Dim) (seed : Word) (q : Modulus) : List Nat :=
  (List.range n.val).map fun r => accumulateAt hash x stepIdx n seed q r

/-- `accumulate`, the public function (R159): it checks N, then q, then packs. Without q it takes 65521. -/
def accumulate (hash : List Byte → Word) (x stepIdx numRows seed : Word)
    (q : Word := BitVec.ofNat 256 Config.qDefault) : Except ParamError Container :=
  match dim? numRows, modulus? q with
  | none, _ => .error .dimension
  | some _, none => .error .modulus
  | some n, some m => .ok (pack (accumulateVec hash x stepIdx n seed m))

end Sys2Proof.Machine
end

