-- ==== Sys2Proof/Machine/Sequencer.lean ====
section
/-! DEFINITION. The Engine's sequencer on its scratch (R39): the direct implementation of R124 and R152, row by row
and column by column. R39 is informative as to this form; nothing but the scratch depends on it. Log 3. -/

namespace Sys2Proof.Machine

/-- Column `c` becomes current; a new digest is computed when 16 lanes are used up (R124). -/
def Scratch.enterColumn (hash : List Byte → Word) (t : Scratch) (c : Nat) : Scratch :=
  if c % Config.lanesPerWord = 0 then
    { t with
      c := BitVec.ofNat 7 c
      b := BitVec.ofNat 2 (c / Config.lanesPerWord)
      digest := blockDigest hash t.rowSeed (c / Config.lanesPerWord) }
  else { t with c := BitVec.ofNat 7 c }

/-- The coefficient of the current column: a lane of the current digest, reduced (R124). -/
def Scratch.coef (t : Scratch) (q : Modulus) : Nat :=
  (lane t.digest (t.c.toNat % Config.lanesPerWord)).toNat % q.val

/-- A row begins: its seed is computed and the sum is cleared (R121, R152). -/
def Scratch.enterRow (hash : List Byte → Word) (seed stepIdx row : Word) (r : Nat) (t : Scratch) : Scratch :=
  { t with r := BitVec.ofNat 7 r, rowSeed := Machine.rowSeed hash seed stepIdx row, sum := 0 }

/-- The addition and conditional subtraction of R152, in 17 bits. -/
def Scratch.addColumn (t : Scratch) (x : Word) (q : Modulus) : Scratch :=
  if x.getLsbD t.c.toNat then
    let added := t.sum + BitVec.ofNat 17 (t.coef q)
    { t with sum := if BitVec.ofNat 17 q.val ≤ added then added - BitVec.ofNat 17 q.val else added }
  else t

/-- `Y[i] <- v`. -/
def Scratch.store (t : Scratch) (i : Nat) (v : Nat) : Scratch :=
  { t with y := t.y.setIfInBounds i (BitVec.ofNat 16 v) }

/-- One row of ACC or UPD: its columns in order, then `Y[r] <- SUM` (R152). -/
def Scratch.accumulateRow (hash : List Byte → Word) (x stepIdx : Word) (n : Dim) (seed : Word) (q : Modulus)
    (t : Scratch) (r : Nat) : Scratch :=
  let t' := (List.range n.val).foldl (fun t c => (t.enterColumn hash c).addColumn x q)
    (t.enterRow hash seed stepIdx (BitVec.ofNat 256 r) r)
  t'.store r t'.sum.toNat

/-- The rows of ACC or UPD in order (R160). -/
def Scratch.accumulate (hash : List Byte → Word) (x stepIdx : Word) (n : Dim) (seed : Word) (q : Modulus)
    (t : Scratch) : Scratch :=
  (List.range n.val).foldl (fun t r => t.accumulateRow hash x stepIdx n seed q r) t

/-- The one row of DROW: each coefficient goes to `Y` (R124). -/
def Scratch.derive (hash : List Byte → Word) (seed stepIdx row : Word) (n : Dim) (q : Modulus)
    (t : Scratch) : Scratch :=
  (List.range n.val).foldl
    (fun t c => let t' := t.enterColumn hash c; t'.store c (t'.coef q))
    (t.enterRow hash seed stepIdx row 0)

end Sys2Proof.Machine
end

