-- ==== Sys2Proof/Machine/Accumulate.lean ====
section
/-! DEFINITION. The command ACC (R158): its acceptance (R44), which is its instruction's own step, and what its
completion computes (R45). -/

namespace Sys2Proof.Machine

/-- `ACC`, `ACC.D`: a write of 0x001 or 0x101 to `CMD` (R158, R101). -/
def execAcc (qdef : Bool) (s : State) : Result :=
  transact (cmdWrite (encodeCommand ⟨.acc, qdef⟩)) (accept ⟨.acc, qdef⟩) s

/-- `(R0,R1,R2,R3) <- pack(accumulateVec(X, STEP, N, SEED, q_eff))` (R45). -/
def completeAcc (hash : List Byte → Word) (n : Dim) (q : Modulus) (s : State) : State :=
  (s.setScratch (s.scratch.accumulate hash s.x s.stepIdx n s.seed q)).setResult
    (pack (accumulateVec hash s.x s.stepIdx n s.seed q))

end Sys2Proof.Machine
end

