-- ==== Sys2Proof/Machine/Combine.lean ====
section
/-! DEFINITION. XRC, the XOR combiner (R185 to R187), and the command XORALL (R188). -/

namespace Sys2Proof.Machine

/-- `combine(w[0..3])`, also called `xorAll` (R186). -/
def combine (w : Container) : Word := w.w0 ^^^ w.w1 ^^^ w.w2 ^^^ w.w3

/-- `XORALL`: a write of 0x003 to `CMD` (R188). With `QDEF` = 1 the word, 0x103, is illegal (R96). -/
def execXorall (qdef : Bool) (s : State) : Result :=
  transact (cmdWrite (encodeCommand ⟨.xorall, qdef⟩))
    (fun s => if qdef then s.raise statusIllegal else accept ⟨.xorall, false⟩ s) s

/-- `XR <- A0 ⊕ A1 ⊕ A2 ⊕ A3` (R45). -/
def completeXorall (s : State) : State := s.setXr (combine s.aVec)

end Sys2Proof.Machine
end

