-- ==== Sys2Proof/Machine/Derive.lean ====
section
/-! DEFINITION. The command DROW (R132). -/

namespace Sys2Proof.Machine

/-- `DROW`, `DROW.D`: a write of 0x004 or 0x104 to `CMD` (R132, R101). -/
def execDrow (qdef : Bool) (s : State) : Result :=
  transact (cmdWrite (encodeCommand ⟨.drow, qdef⟩)) (accept ⟨.drow, qdef⟩) s

/-- `(R0,R1,R2,R3) <- pack(deriveRow(SEED, STEP, ROW, N, q_eff))` (R45). -/
def completeDrow (hash : List Byte → Word) (n : Dim) (q : Modulus) (s : State) : State :=
  (s.setScratch (s.scratch.derive hash s.seed s.stepIdx s.row n q)).setResult
    (pack (deriveRow hash s.seed s.stepIdx s.row n q))

end Sys2Proof.Machine
end

