-- ==== Sys2Proof/Machine/Update.lean ====
section
/-! DEFINITION. The accumulator updater (R195 to R197) and the command UPD (R198). -/

namespace Sys2Proof.Machine

/-- `update(prev, newInput, stepIndex, N, seed, q)` (R196). Without q it takes 65521. -/
def update (hash : List Byte → Word) (prev : Container) (newInput stepIdx numRows seed : Word)
    (q : Word := BitVec.ofNat 256 Config.qDefault) : Except ParamError Container :=
  accumulate hash (combine prev ^^^ newInput) stepIdx numRows seed q

/-- `UPD`, `UPD.D`: a write of 0x002 or 0x102 to `CMD` (R198, R101). -/
def execUpd (qdef : Bool) (s : State) : Result :=
  transact (cmdWrite (encodeCommand ⟨.upd, qdef⟩)) (accept ⟨.upd, qdef⟩) s

/-- `combined = (A0 ⊕ A1 ⊕ A2 ⊕ A3) ⊕ X` (R45). -/
def State.combined (s : State) : Word := combine s.aVec ^^^ s.x

/-- `(R0,R1,R2,R3) <- pack(accumulateVec(combined, STEP, N, SEED, q_eff))` (R45). -/
def completeUpd (hash : List Byte → Word) (n : Dim) (q : Modulus) (s : State) : State :=
  (s.setScratch (s.scratch.accumulate hash s.combined s.stepIdx n s.seed q)).setResult
    (pack (accumulateVec hash s.combined s.stepIdx n s.seed q))

end Sys2Proof.Machine
end

