-- ==== Sys2Proof/Machine/Port.lean ====
section
/-! DEFINITION. The two port transactions, RD (R66) and WR (R67). -/

namespace Sys2Proof.Machine

/-- `RD`: returns the register at `addr` and changes nothing (R66, R68). -/
def execRd (addr : RegAddr) (s : State) : Result :=
  transact ⟨false, addr, 0⟩ (fun s => s.respond (some (s.regRead addr))) s

/-- A write to `CMD`: the word is decoded (R92) and its command accepted (R44); an illegal word sets `STATUS` to
0x12 and does nothing else (R96). -/
def writeCmd (w : Word) (s : State) : Result :=
  match decodeCommand w with
  | .ok ⟨.acc, qdef⟩ => execAcc qdef s
  | .ok ⟨.upd, qdef⟩ => execUpd qdef s
  | .ok ⟨.xorall, qdef⟩ => execXorall qdef s
  | .ok ⟨.drow, qdef⟩ => execDrow qdef s
  | .error _ => transact (cmdWrite w) (fun s => s.raise statusIllegal) s

/-- `WR`: a write to `CMD` starts a command; any other stores, or is ignored (R67, R69). -/
def execWr (addr : RegAddr) (data : Word) (s : State) : Result :=
  if addr = cmdAddr then writeCmd data s
  else transact ⟨true, addr, data⟩ (fun s => s.regWrite addr data) s

end Sys2Proof.Machine
end

