-- ==== Sys2Proof/Machine/Dispatch.lean ====
section
/-! DEFINITION. One arm per constructor of `Instr`: which meaning each instruction has. -/

namespace Sys2Proof.Machine

-- the Host's step that offers the instruction at the port
def exec (i : Instr) (s : State) : Host.Outcome State Fault Refusal :=
  match i with
  | .acc qdef => Sys2Proof.Machine.execAcc qdef s
  | .upd qdef => Sys2Proof.Machine.execUpd qdef s
  | .xorall qdef => Sys2Proof.Machine.execXorall qdef s
  | .drow qdef => Sys2Proof.Machine.execDrow qdef s
  | .rd addr => Sys2Proof.Machine.execRd addr s
  | .wr addr data => Sys2Proof.Machine.execWr addr data s

end Sys2Proof.Machine
end

