-- ==== Sys2Proof/Machine/Engine.lean ====
section
/-! DEFINITION. The Engine's only step, the completion of the command in progress (R45). -/

namespace Sys2Proof.Machine

/-- The valid parameters of the command in progress. R44 has checked them, so the first case is the only one a run
meets; outside the ranges `deriveRow` is not defined (R127, U6) and the step is refused. Log 8. -/
def withParams (s : State) (k : Dim → Modulus → State) : Result :=
  match dim? s.nrows, modulus? (s.qEff s.cur.qdef) with
  | some n, some q => .next (k n q)
  | _, _ => .refused .engineOperandsOutOfRange

/-- Command completion (R45), taken while `PHASE = BUSY`. -/
def complete (hash : List Byte → Word) (s : State) : Result :=
  match s.cur.op with
  | .acc => withParams s fun n q => (completeAcc hash n q s).finish
  | .upd => withParams s fun n q => (completeUpd hash n q s).finish
  | .drow => withParams s fun n q => (completeDrow hash n q s).finish
  | .xorall => .next (completeXorall s).finish

/-- The Engine's step: enabled while BUSY, under the `HASH` of this instance (R45). -/
def engineStep (s : State) : Result :=
  match s.phase with
  | .busy => complete Config.hash s
  | .idle => .next s

end Sys2Proof.Machine
end

