-- ==== Sys2Proof/Machine/Turn.lean ====
section
/-! DEFINITION. Which agent moves next, and its move (R12, R64, R65, R240, R249); how an instruction word is placed so
that the next step runs it. Logs 4, 5, 10. -/

namespace Sys2Proof.Machine

/-- The Host offers a transaction (R63). -/
def offer (t : Request) (s : State) : Result := exec t.toInstr s

/-- With a transaction outstanding the Host can offer no other (R65). In IDLE the outstanding one is performed "as if
first offered at that moment" (R64); in BUSY the Engine's step is the one enabled, and an Engine turn that stood next
is this one. -/
def heldTurn (t : Request) (s : State) : Result :=
  match s.phase with
  | .idle => offer t s.release
  | .busy =>
    match s.agenda with
    | .engine :: rest => engineStep (s.setAgenda rest)
    | _ => engineStep s

/-- With none outstanding the next turn is taken: the Host's offer, or the Engine's step, which in IDLE is not enabled
and passes. With no turn left a BUSY block completes (R249) and an IDLE one waits (R242). -/
def freeTurn (s : State) : Result :=
  match s.agenda with
  | .host t :: rest => offer t (s.setAgenda rest)
  | .engine :: rest => engineStep (s.setAgenda rest)
  | .reset :: rest => .next (s.setAgenda rest).resetEvent
  | [] => engineStep s

/-- The next move. A Reset "may occur at any moment" (R240), so it comes before everything. -/
def takeTurn (s : State) : Result :=
  match s.agenda with
  | .reset :: rest => .next (s.setAgenda rest).resetEvent
  | _ =>
    match s.held with
    | some t => heldTurn t s
    | none => freeTurn s

/-- The state in which the next step runs the instruction of a table word: the Host offers its request next, nothing
being outstanding. -/
def offerNext (s : State) (t : Request) : State :=
  (s.release).setAgenda (.host t :: s.agenda)

end Sys2Proof.Machine
end

