-- ==== Sys2Proof/Machine/Step.lean ====
section
/-! DEFINITION. One step of the machine. -/

namespace Sys2Proof.Machine

/-- One step: the move of the agent whose turn it is (R12). -/
def step (s : State) : Host.Outcome State Fault Refusal := takeTurn s

/-- `s` with the instruction of a table word as the Host's next offer. Log 10. -/
def State.withFetchWord (s : State) (nbits w : Nat) : State := offerNext s (tableRequest nbits w)

end Sys2Proof.Machine
end

