-- ==== Sys2Proof/Machine/HostNotation.lean ====
section
/-! DEFINITION. The host notation (R101) and the pseudo-instructions (R102) as the transactions they stand for. -/

namespace Sys2Proof.Machine

/-- `WR reg, v` (R101). -/
def wrLine (o : OperandReg) (v : Word) : Request := ⟨true, o.addr, v⟩

/-- `RD reg` for a result register (R101). -/
def rdLine (r : ResultReg) : Request := ⟨false, r.addr, 0⟩

/-- `RD STATUS` (R101). -/
def rdStatus : Request := ⟨false, statusAddr, 0⟩

/-- `CMD ACC`, `CMD ACC.D` and the other command lines (R101). -/
def cmdLine (c : Command) : Request := cmdWrite (encodeCommand c)

/-- `WAIT`: `RD STATUS` repeated; how often is the Host's loop's, possibly zero times (R102, R249). -/
def waitLines (polls : Nat) : List Request := List.replicate polls rdStatus

/-- `LDA (w0, w1, w2, w3)` (R102). -/
def ldaLines (w : Container) : List Request :=
  [wrLine .a0 w.w0, wrLine .a1 w.w1, wrLine .a2 w.w2, wrLine .a3 w.w3]

/-- `RDRES` (R102). -/
def rdresLines : List Request := [rdLine .r0, rdLine .r1, rdLine .r2, rdLine .r3]

/-- `WR Q, q`, or nothing when q is omitted (R102). -/
def qLines (q : Option Word) : List Request :=
  match q with
  | some v => [wrLine .q v]
  | none => []

/-- What stands after the operand writes: the command, `WAIT`, `RD STATUS`, `RDRES` (R102). -/
def callLines (op : Op) (q : Option Word) (polls : Nat) : List Request :=
  cmdLine ⟨op, q.isNone⟩ :: (waitLines polls ++ rdStatus :: rdresLines)

/-- `ACCUMULATE x, step, n, seed, [q]` (R102). -/
def accumulateLines (x step n seed : Word) (q : Option Word) (polls : Nat) : List Request :=
  [wrLine .x x, wrLine .step step, wrLine .nrows n, wrLine .seed seed] ++ qLines q ++ callLines .acc q polls

/-- `UPDATE (w0..w3), v, step, n, seed, [q]` (R102). -/
def updateLines (w : Container) (v step n seed : Word) (q : Option Word) (polls : Nat) : List Request :=
  ldaLines w ++ [wrLine .x v, wrLine .step step, wrLine .nrows n, wrLine .seed seed] ++ qLines q
    ++ callLines .upd q polls

/-- `XORALLF (w0..w3)` (R102). -/
def xorallLines (w : Container) (polls : Nat) : List Request :=
  ldaLines w ++ cmdLine ⟨.xorall, false⟩ :: (waitLines polls ++ [rdStatus, rdLine .xr])

/-- `DERIVEROW seed, step, row, n, [q]` (R102). -/
def deriveRowLines (seed step row n : Word) (q : Option Word) (polls : Nat) : List Request :=
  [wrLine .seed seed, wrLine .step step, wrLine .row row, wrLine .nrows n] ++ qLines q ++ callLines .drow q polls

end Sys2Proof.Machine
end

