-- ==== Sys2Proof/Safety.lean ====
section
/-! DEFINITION. What a safe state is, in the terms the claims use: the invariant of the phases, of `STATUS` and of the
result lanes; a command run to its end; what two states share. -/

namespace Sys2Proof.Machine

/-- The command in progress has valid parameters: R44 accepts no other. -/
def ParamsValid (s : State) : Prop :=
  s.cur.op = .xorall ∨ ((dim? s.nrows).isSome ∧ (modulus? (s.qEff s.cur.qdef)).isSome)

/-- `STATUS` has one of its seven values (R32), says BUSY exactly in phase BUSY (R34), a command in progress is one of
the seven with valid parameters (R44, R92), and a read of `STATUS` is never held (R64). -/
structure ControlInv (s : State) : Prop where
  statusLegal : s.status ∈ legalStatus
  busyStatus : s.phase = .busy ↔ s.status = statusBusy
  curLegal : s.phase = .busy → s.cur.wellFormed = true
  paramsValid : s.phase = .busy → ParamsValid s
  heldNotStatus : ∀ t, s.held = some t → t.write = true ∨ t.addr ≠ statusAddr

/-- Every lane of the packed result is below the greatest modulus: at most 65520 (R128, R155). -/
def ResultLanesInRange (s : State) : Prop :=
  ∀ i j, i < 4 → j < Config.lanesPerWord → (lane (s.rVec.word i) j).toNat < Config.qMax

/-- The two states agree on what the block holds for the Host to read and on its phase: everything but the command in
progress, the scratch, the port and the agenda. -/
def SameRegisters (s t : State) : Prop :=
  (∀ o, s.operand o = t.operand o) ∧ (∀ r, s.result r = t.result r) ∧ s.status = t.status ∧ s.phase = t.phase

/-- A command offered in `s` and, when it is accepted as valid, completed: its acceptance (R44) and then the Engine's
step (R45). -/
def runCommand (c : Command) (s : State) : Result :=
  match exec c.toInstr s with
  | .next t => engineStep t
  | .fault r => .fault r
  | .refused r => .refused r

/-- What the software function a command stands for returns on the operands in `s` (R95, R102): a packed vector or an
error, with the default modulus when `QDEF` is 1. -/
def accCall (hash : List Byte → Word) (qdef : Bool) (s : State) : Except ParamError Container :=
  accumulate hash s.x s.stepIdx s.nrows s.seed (s.qEff qdef)

@[inherit_doc accCall]
def updCall (hash : List Byte → Word) (qdef : Bool) (s : State) : Except ParamError Container :=
  update hash s.aVec s.x s.stepIdx s.nrows s.seed (s.qEff qdef)

end Sys2Proof.Machine
end

