-- ==== Sys2Proof/Certificates/Slice0/Obligations.lean ====
section
/-! DEFINITION. The statements for the provers, in the order of OBLIGATIONS.json. -/

open Sys2Proof Sys2Proof.Machine

/-! ## Encoding -/

/-- Every well-formed instruction, with every operand value its encoding admits, decodes to itself. -/
def Obligations.DecodeEncodeReturnsTheInstruction : Prop :=
  ∀ i : Instr, i.wellFormed = true → decode (encode i) = .ok i

/-- R92: the seven words of the seven commands, and no other word, decode. -/
def Obligations.CommandWordsAreExactlySeven : Prop :=
  ∀ (w : Word) (c : Command), decodeCommand w = .ok c ↔
    (w = 0x001 ∧ c = ⟨.acc, false⟩) ∨ (w = 0x101 ∧ c = ⟨.acc, true⟩) ∨
    (w = 0x002 ∧ c = ⟨.upd, false⟩) ∨ (w = 0x102 ∧ c = ⟨.upd, true⟩) ∨
    (w = 0x003 ∧ c = ⟨.xorall, false⟩) ∨
    (w = 0x004 ∧ c = ⟨.drow, false⟩) ∨ (w = 0x104 ∧ c = ⟨.drow, true⟩)

/-- R96: which words are illegal, in terms of the number alone, and what writing one to `CMD` does in IDLE. -/
def Obligations.IllegalWordSetsStatusOnly : Prop :=
  (∀ w : Word, (∃ e, decodeCommand w = .error e) ↔
    (w.toNat / 512 ≠ 0 ∨ w.toNat / 16 % 16 ≠ 0 ∨ w.toNat % 16 = 0 ∨ 5 ≤ w.toNat % 16 ∨
      (w.toNat % 16 = 3 ∧ w.toNat / 256 % 2 = 1))) ∧
  (∀ (s : State) (w : Word) (e : Reject), s.phase = .idle → decodeCommand w = .error e →
    ∃ p, exec (.wr 0x00 w) s = .next { s with status := 0x12, rsp := p })

/-- R98: the fields of a packed port request, bit by bit, and every request is legal. -/
def Obligations.PortRequestFieldsDecode : Prop :=
  (∀ (p : BitVec 262), p.getLsbD 261 = true →
    decode (.port p) = .ok (.wr (BitVec.ofNat 5 (p.toNat / 2 ^ 256)) (BitVec.ofNat 256 p.toNat))) ∧
  (∀ (p : BitVec 262), p.getLsbD 261 = false →
    decode (.port p) = .ok (.rd (BitVec.ofNat 5 (p.toNat / 2 ^ 256))))

/-- A few table words, written out from R91 and R98 (a sanity statement). -/
def Obligations.WrittenOutWordsDecode : Prop :=
  decodeTableWord 256 0x001 = some (.acc false) ∧ decodeTableWord 256 0x101 = some (.acc true) ∧
  decodeTableWord 256 0x102 = some (.upd true) ∧ decodeTableWord 256 0x003 = some (.xorall false) ∧
  decodeTableWord 256 0x103 = none ∧ decodeTableWord 256 0x104 = some (.drow true) ∧
  decodeTableWord 264 (0x02 * 2 ^ 256) = some (.rd 0x02) ∧
  decodeTableWord 264 (0x22 * 2 ^ 256 + 4) = some (.wr 0x02 4)

/-- A word that decodes is the word of its command, and the command is well formed. -/
def Obligations.DecodedCommandEncodesBack : Prop :=
  ∀ (w : Word) (c : Command), decodeCommand w = .ok c → encodeCommand c = w ∧ c.wellFormed = true

/-! ## Steps and scheduling -/

/-- When nothing is outstanding and the Host's offer is next, the step is `exec` of the instruction its request
decodes to, the offer being used up; a command word offered as the data of a `CMD` write runs its command. The agenda
is the model's (log 4). -/
def Obligations.StepRunsTheOfferedInstruction : Prop :=
  ∀ (s : State) (t : Request) (rest : List Turn), s.held = none → s.agenda = .host t :: rest →
    (∀ i, decode (.port t.toBits) = .ok i → step s = exec i { s with agenda := rest }) ∧
    (∀ (w : Word) (i : Instr), t = ⟨true, 0x00, w⟩ → decode (.cw w) = .ok i →
      step s = exec i { s with agenda := rest })

/-- The next step runs a table word that was placed, whatever the state. Placing is the model's own (logs 9, 10). -/
def Obligations.PlacedTableWordRunsNext : Prop :=
  ∀ (s : State) (nbits w : Nat) (i : Instr), decodeTableWord nbits w = some i →
    step (s.withFetchWord nbits w) = exec i { s with held := none }

/-- In IDLE every transaction is accepted; in BUSY a read of `STATUS` is accepted and every other one, a command's
write among them, is held: it has no effect and returns nothing (R64). A held one is performed, as if first offered
then, once the phase is IDLE, unless a Reset comes. That it then comes before the next offer, and the data 0 of a held
read, are the model's choice (log 5); so is the field `rsp` for what the port returned (log 6). -/
def Obligations.TransactionsAreHeldWhileBusy : Prop :=
  (∀ (s : State) (t : Request), s.phase = .idle → ∃ u, exec t.toInstr s = .next u ∧ u.held = s.held) ∧
  (∀ (s : State), s.phase = .busy → exec (.rd 0x01) s = .next { s with rsp := some s.status }) ∧
  (∀ (s : State) (addr : RegAddr), s.phase = .busy → addr ≠ 0x01 →
    exec (.rd addr) s = .next { s with held := some ⟨false, addr, 0⟩, rsp := none }) ∧
  (∀ (s : State) (addr : RegAddr) (v : Word), s.phase = .busy →
    exec (.wr addr v) s = .next { s with held := some ⟨true, addr, v⟩, rsp := none }) ∧
  (∀ (s : State) (c : Command), s.phase = .busy →
    exec c.toInstr s = .next { s with held := some ⟨true, 0x00, encodeCommand c⟩, rsp := none }) ∧
  (∀ (s : State) (t : Request), s.held = some t → s.phase = .idle → s.agenda.head? ≠ some .reset →
    step s = exec t.toInstr { s with held := none })

/-- A command is the write of its word to `CMD`, in every state (R99); the form `xorall true`, which the model keeps for
the illegal word 0x103 (log 7), is the write of that word. -/
def Obligations.CommandIsTheWriteOfItsWord : Prop :=
  (∀ (s : State) (w : Word) (c : Command), decodeCommand w = .ok c →
    exec c.toInstr s = exec (.wr 0x00 w) s) ∧
  (∀ s : State, exec (.xorall true) s = exec (.wr 0x00 0x103) s)

/-- While BUSY the block's own step is the completion: when a transaction is outstanding (and no Reset comes), when the
Engine's turn is next, and when nothing else is to happen. Which turn comes next is the model's own data (log 4). -/
def Obligations.BusyStepCompletesTheCommand : Prop :=
  ∀ s : State, s.phase = .busy →
    (∀ t, s.held = some t → s.agenda.head? ≠ some .reset → s.agenda.head? ≠ some .engine →
      step s = complete Config.hash s) ∧
    (s.held = none → s.agenda = [] → step s = complete Config.hash s) ∧
    (∀ rest, s.agenda = .engine :: rest → step s = complete Config.hash { s with agenda := rest })

/-- Completion is finite (R249). A BUSY state of the invariant is IDLE after at most one step more than the agenda is
long; the agenda, and with it the bound, is the model's (log 4). -/
def Obligations.BusyEndsWithinTheAgenda : Prop :=
  ∀ s : State, ControlInv s → s.phase = .busy →
    ∃ k t, k ≤ s.agenda.length + 1 ∧ core.run k s = .next t ∧ t.phase = .idle

/-! ## Reset -/

/-- R46: a Reset event, in either phase, gives every piece of state its reset value in one step. -/
def Obligations.ResetTakesTheResetValues : Prop :=
  ∀ (s : State) (rest : List Turn), s.agenda = .reset :: rest →
    ∃ t, step s = .next t ∧ t.nrows = 0 ∧ t.q = 65521 ∧ t.stepIdx = 0 ∧ t.seed = 0 ∧ t.x = 0 ∧ t.row = 0 ∧
      t.a0 = 0 ∧ t.a1 = 0 ∧ t.a2 = 0 ∧ t.a3 = 0 ∧ t.r0 = 0 ∧ t.r1 = 0 ∧ t.r2 = 0 ∧ t.r3 = 0 ∧ t.xr = 0 ∧
      t.status = 0 ∧ t.phase = .idle

/-- R241: a Reset during a command abandons it, and discards a held transaction: afterwards nothing is outstanding,
no completion is due, all the Host had written is lost, and `STATUS`, `R0..R3` and `XR` read 0. Nothing else ends a
command without an outcome. -/
def Obligations.ResetAbandonsTheCommand : Prop :=
  (∀ (s : State) (rest : List Turn), s.phase = .busy → s.agenda = .reset :: rest →
    ∃ t, step s = .next t ∧ t.phase = .idle ∧ t.held = none ∧ engineStep t = .next t ∧
      (∀ o, t.operand o = State.reset.operand o) ∧
      (∀ addr : RegAddr, addr = 0x01 ∨ (0x0C ≤ addr.toNat ∧ addr.toNat ≤ 0x10) →
        exec (.rd addr) t = .next { t with rsp := some 0 })) ∧
  (∀ s t : State, s.phase = .busy → step s = .next t → t.phase = .idle →
    s.agenda.head? = some .reset ∨ t.status = 0x02)

/-- After reset `Q` reads 65521 and every other address reads 0 (R46, R62, R68). -/
def Obligations.EveryAddressReadsItsResetValue : Prop :=
  ∀ addr : RegAddr, exec (.rd addr) State.reset =
    .next { State.reset with rsp := some (if addr = 0x03 then 65521 else 0) }

/-- The invariants hold after reset. -/
def Obligations.ResetStateMeetsTheInvariants : Prop :=
  ControlInv State.reset ∧ ResultLanesInRange State.reset

/-! ## The register space -/

/-- R66, R68: a read returns the register at its address, or 0 (`rsp` holds its `rdata`, R63), and changes nothing. -/
def Obligations.ReadReturnsTheRegisterAtItsAddress : Prop :=
  ∀ (s : State) (addr : RegAddr), s.phase = .idle ∨ addr = 0x01 →
    exec (.rd addr) s = .next { s with
      rsp := some (([0, s.status, s.nrows, s.q, s.stepIdx, s.seed, s.x, s.row, s.a0, s.a1, s.a2, s.a3,
        s.r0, s.r1, s.r2, s.r3, s.xr] : List Word).getD addr.toNat 0) }

/-- A write to an operand address stores all 256 bits there and changes nothing else (R67); that a write leaves `rsp`
empty is the model's choice (log 6). -/
def Obligations.OperandWriteStoresTheWord : Prop :=
  ∀ (s : State) (o : OperandReg) (v : Word), s.phase = .idle →
    ∃ t, exec (.wr o.addr v) s = .next t ∧ t.operand o = v ∧
      (∀ o', o' ≠ o → t.operand o' = s.operand o') ∧ (∀ r, t.result r = s.result r) ∧
      t.status = s.status ∧ t.phase = s.phase ∧ t.cur = s.cur ∧ t.scratch = s.scratch ∧
      t.held = s.held ∧ t.agenda = s.agenda ∧ t.rsp = none

/-- R69: writes to `STATUS`, to the result registers and to the reserved addresses change nothing. -/
def Obligations.OtherWritesAreIgnored : Prop :=
  ∀ (s : State) (addr : RegAddr) (v : Word), s.phase = .idle → addr = 0x01 ∨ 0x0C ≤ addr.toNat →
    ∃ p, exec (.wr addr v) s = .next { s with rsp := p }

/-- The address map names each operand register, each result register and `CMD` and `STATUS` once (R62). -/
def Obligations.AddressMapNamesEachRegisterOnce : Prop :=
  (∀ (addr : RegAddr) (o : OperandReg), regAt addr = .operand o ↔ addr = o.addr) ∧
  (∀ (addr : RegAddr) (r : ResultReg), regAt addr = .result r ↔ addr = r.addr) ∧
  (∀ addr : RegAddr, regAt addr = .cmd ↔ addr = 0x00) ∧
  (∀ addr : RegAddr, regAt addr = .status ↔ addr = 0x01) ∧
  (∀ addr : RegAddr, regAt addr = .reserved ↔ 0x11 ≤ addr.toNat)

/-- R21: an operand register changes only by a write to its own address, performed in IDLE, or by a Reset. -/
def Obligations.OperandsChangeOnlyByWriteOrReset : Prop :=
  ∀ (s t : State) (o : OperandReg), step s = .next t → t.operand o ≠ s.operand o →
    s.agenda.head? = some .reset ∨
    (s.phase = .idle ∧
      (s.held = some ⟨true, o.addr, t.operand o⟩ ∨
        (s.held = none ∧ s.agenda.head? = some (.host ⟨true, o.addr, t.operand o⟩))))

/-- R29: no transaction and no acceptance writes a result register; a step that changes one is a completion with
outcome OK or a Reset. -/
def Obligations.ResultsChangeOnlyByCompletionOrReset : Prop :=
  (∀ (i : Instr) (s t : State), exec i s = .next t → ∀ r, t.result r = s.result r) ∧
  (∀ (s t : State) (r : ResultReg), step s = .next t → t.result r ≠ s.result r →
    s.agenda.head? = some .reset ∨ (s.phase = .busy ∧ t.phase = .idle ∧ t.status = 0x02 ∧ r ∈ s.cur.writes))

/-! ## Commands -/

/-- R44: what a write to `CMD` does in IDLE, case by case. -/
def Obligations.CommandAcceptance : Prop :=
  ∀ (s : State) (w : Word), s.phase = .idle → ∃ p : Option Word,
    (∀ e, decodeCommand w = .error e →
      exec (.wr 0x00 w) s = .next { s with status := 0x12, rsp := p }) ∧
    (∀ c, decodeCommand w = .ok c → c.op = .xorall →
      exec (.wr 0x00 w) s =
        .next { s with cur := ⟨.xorall, false⟩, phase := .busy, status := 0x01, rsp := p }) ∧
    (∀ c, decodeCommand w = .ok c → c.op ≠ .xorall →
      let q := if c.qdef then 65521 else s.q.toNat
      let badN := s.nrows.toNat < 1 ∨ s.nrows.toNat > 64
      let badQ := q < 2 ∨ q > 65521
      (badN ∧ badQ → exec (.wr 0x00 w) s = .next { s with status := 0x0E, rsp := p }) ∧
      (badN ∧ ¬ badQ → exec (.wr 0x00 w) s = .next { s with status := 0x06, rsp := p }) ∧
      (¬ badN ∧ badQ → exec (.wr 0x00 w) s = .next { s with status := 0x0A, rsp := p }) ∧
      (¬ badN ∧ ¬ badQ → exec (.wr 0x00 w) s =
        .next { s with cur := c, phase := .busy, status := 0x01, rsp := p }))

/-- R45: the completion of each of the four operations: ACC, UPD and DROW on the parameters R44 has found valid,
XORALL whatever `NROWS` and `Q` hold; the Engine's step is this one. -/
def Obligations.CompletionWritesTheResult : Prop :=
  (∀ s : State, s.phase = .busy → engineStep s = complete Config.hash s) ∧
  (∀ (hash : List Byte → Word) (s : State) (n : Dim) (q : Modulus), s.phase = .busy → s.cur.op ≠ .xorall →
    s.nrows.toNat = n.val → (if s.cur.qdef then 65521 else s.q.toNat) = q.val →
    ∃ t, complete hash s = .next t ∧ t.status = 0x02 ∧ t.phase = .idle ∧ t.xr = s.xr ∧
      (s.cur.op = .acc → t.rVec = pack (accumulateVec hash s.x s.stepIdx n s.seed q)) ∧
      (s.cur.op = .upd → t.rVec =
        pack (accumulateVec hash ((s.a0 ^^^ s.a1 ^^^ s.a2 ^^^ s.a3) ^^^ s.x) s.stepIdx n s.seed q)) ∧
      (s.cur.op = .drow → t.rVec = pack (deriveRow hash s.seed s.stepIdx s.row n q))) ∧
  (∀ (hash : List Byte → Word) (s : State), s.phase = .busy → s.cur.op = .xorall →
    ∃ t, complete hash s = .next t ∧ t.status = 0x02 ∧ t.phase = .idle ∧
      t.xr = s.a0 ^^^ s.a1 ^^^ s.a2 ^^^ s.a3 ∧ t.rVec = s.rVec)

/-- ACC on valid parameters: accepted, and completed with the packed accumulation in `R0..R3`; nothing else of the
registers changes. What stays in the scratch is said by `SequencerComputesTheElements` (log 3). That `CUR`
keeps the command after the completion is the model's choice (log 2), and so is `rsp` (log 6). -/
def Obligations.AccCompletesWithTheAccumulation : Prop :=
  ∀ (s : State) (qdef : Bool) (n : Dim) (q : Modulus), s.phase = .idle →
    s.nrows.toNat = n.val → (if qdef then 65521 else s.q.toNat) = q.val →
    ∃ t u y, exec (.acc qdef) s = .next t ∧
      t = { s with cur := ⟨.acc, qdef⟩, phase := .busy, status := 0x01, rsp := none } ∧
      engineStep t = .next u ∧ y = pack (accumulateVec Config.hash s.x s.stepIdx n s.seed q) ∧
      u = { s with
        r0 := y.w0, r1 := y.w1, r2 := y.w2, r3 := y.w3, status := 0x02, cur := ⟨.acc, qdef⟩, rsp := none
        scratch := u.scratch }

/-- UPD on valid parameters: the same on the XOR of `A0..A3` and `X`. That `CUR` keeps the command after the
completion is the model's choice (log 2), as are the scratch (log 3) and `rsp` (log 6). -/
def Obligations.UpdCompletesWithTheUpdate : Prop :=
  ∀ (s : State) (qdef : Bool) (n : Dim) (q : Modulus), s.phase = .idle →
    s.nrows.toNat = n.val → (if qdef then 65521 else s.q.toNat) = q.val →
    ∃ t u y, exec (.upd qdef) s = .next t ∧
      t = { s with cur := ⟨.upd, qdef⟩, phase := .busy, status := 0x01, rsp := none } ∧
      engineStep t = .next u ∧
      y = pack (accumulateVec Config.hash ((s.a0 ^^^ s.a1 ^^^ s.a2 ^^^ s.a3) ^^^ s.x) s.stepIdx n s.seed q) ∧
      u = { s with
        r0 := y.w0, r1 := y.w1, r2 := y.w2, r3 := y.w3, status := 0x02, cur := ⟨.upd, qdef⟩, rsp := none
        scratch := u.scratch }

/-- DROW on valid parameters, whatever `ROW` holds: the packed row in `R0..R3`. That `CUR` keeps the command after the
completion is the model's choice (log 2), as are the scratch (log 3) and `rsp` (log 6). -/
def Obligations.DrowCompletesWithTheRow : Prop :=
  ∀ (s : State) (qdef : Bool) (n : Dim) (q : Modulus), s.phase = .idle →
    s.nrows.toNat = n.val → (if qdef then 65521 else s.q.toNat) = q.val →
    ∃ t u y, exec (.drow qdef) s = .next t ∧
      t = { s with cur := ⟨.drow, qdef⟩, phase := .busy, status := 0x01, rsp := none } ∧
      engineStep t = .next u ∧ y = pack (deriveRow Config.hash s.seed s.stepIdx s.row n q) ∧
      u = { s with
        r0 := y.w0, r1 := y.w1, r2 := y.w2, r3 := y.w3, status := 0x02, cur := ⟨.drow, qdef⟩, rsp := none
        scratch := u.scratch }

/-- XORALL, whatever `NROWS` and `Q` hold: the XOR of `A0..A3` in `XR`; `R0..R3` are not disturbed.
That `CUR` keeps the command after the completion (log 2), that XORALL leaves the scratch alone (log 3) and `rsp` (log 6)
are the model's choice. -/
def Obligations.XorallCompletesWithTheXor : Prop :=
  ∀ s : State, s.phase = .idle →
    ∃ t, exec (.xorall false) s = .next t ∧
      t = { s with cur := ⟨.xorall, false⟩, phase := .busy, status := 0x01, rsp := none } ∧
      engineStep t = .next { s with
        xr := s.a0 ^^^ s.a1 ^^^ s.a2 ^^^ s.a3, status := 0x02, cur := ⟨.xorall, false⟩, rsp := none }

/-- R212, R213: ACC, UPD and DROW with N or the effective q out of range end at once: the error bits and DONE are set,
BUSY is clear, and nothing else of the block changes. -/
def Obligations.ParameterErrorsWriteStatusOnly : Prop :=
  ∀ (s : State) (c : Command), s.phase = .idle → c.op ≠ .xorall →
    (s.nrows.toNat < 1 ∨ s.nrows.toNat > 64) ∨ (c.qdef = false ∧ (s.q.toNat < 2 ∨ s.q.toNat > 65521)) →
    ∃ t, exec c.toInstr s = .next t ∧ t = { s with status := t.status, rsp := t.rsp } ∧
      t.doneFlag = true ∧ t.busyFlag = false ∧ t.errIllFlag = false ∧
      (t.errDimFlag = true ↔ s.nrows.toNat < 1 ∨ s.nrows.toNat > 64) ∧
      (t.errModFlag = true ↔ c.qdef = false ∧ (s.q.toNat < 2 ∨ s.q.toNat > 65521))

/-- R145: the outcomes at the boundaries of the two ranges, for each of the three commands, with q from `Q` and with
the default q. -/
def Obligations.ValidationBoundaries : Prop :=
  ∀ (s : State) (op : Op) (qdef : Bool) (n q st : Word), s.phase = .idle → op ≠ .xorall →
    (n, if qdef then 65521 else q, st) ∈ ([(0, 65521, 0x06), (1, 65521, 0x02), (64, 65521, 0x02), (65, 65521, 0x06), (4, 0, 0x0A),
      (4, 1, 0x0A), (4, 2, 0x02), (4, 65521, 0x02), (4, 65522, 0x0A)] : List (Word × Word × Word)) →
    ∃ t, runCommand ⟨op, qdef⟩ { s with nrows := n, q := q } = .next t ∧ t.status = st

/-- What a command's own step leaves unchanged, in either phase: every operand and result register, the scratch and
the agenda; in BUSY also `STATUS`, `PHASE` and `CUR`, and in IDLE the outstanding transaction. -/
def Obligations.CommandAcceptanceFrame : Prop :=
  ∀ (s t : State) (c : Command), exec c.toInstr s = .next t →
    (∀ o, t.operand o = s.operand o) ∧ (∀ r, t.result r = s.result r) ∧ t.scratch = s.scratch ∧
    t.agenda = s.agenda ∧
    (s.phase = .busy → t.status = s.status ∧ t.phase = s.phase ∧ t.cur = s.cur) ∧
    (s.phase = .idle → t.held = s.held)

/-- What a completion leaves unchanged: every operand register, the results the command does not write (R41), `CUR`,
the outstanding transaction, the port's data and the agenda. That `CUR` and the port's data stay is the model's choice
(logs 2, 6). -/
def Obligations.CompletionFrame : Prop :=
  ∀ (hash : List Byte → Word) (s t : State), complete hash s = .next t →
    (∀ o, t.operand o = s.operand o) ∧ (∀ r, r ∉ s.cur.writes → t.result r = s.result r) ∧
    t.cur = s.cur ∧ t.held = s.held ∧ t.rsp = s.rsp ∧ t.agenda = s.agenda

/-- What the two transactions leave unchanged in every state and form: a read changes no register, no phase and no
command; a write changes no result register and no operand register but the one at its address. -/
def Obligations.TransactionFrame : Prop :=
  (∀ (s t : State) (addr : RegAddr), exec (.rd addr) s = .next t →
    SameRegisters t s ∧ t.cur = s.cur ∧ t.scratch = s.scratch ∧ t.agenda = s.agenda) ∧
  (∀ (s t : State) (addr : RegAddr) (v : Word), exec (.wr addr v) s = .next t →
    (∀ r, t.result r = s.result r) ∧ (∀ o : OperandReg, o.addr ≠ addr → t.operand o = s.operand o) ∧
    t.scratch = s.scratch ∧ t.agenda = s.agenda ∧
    (addr ≠ 0x00 → t.status = s.status ∧ t.phase = s.phase ∧ t.cur = s.cur))

/-- The command ACC, run to its end, is the software function `accumulate` (R159) on the operands: the same packed
vector, or the same error kind with the old `R0..R3`. -/
def Obligations.AccCommandIsAccumulate : Prop :=
  ∀ (s : State) (qdef : Bool), s.phase = .idle →
    ∃ t, runCommand ⟨.acc, qdef⟩ s = .next t ∧ t.phase = .idle ∧
      (∀ w, accCall Config.hash qdef s = .ok w → t.status = 0x02 ∧ t.rVec = w) ∧
      (∀ e, accCall Config.hash qdef s = .error e → wrapperError t.status = some e ∧ t.rVec = s.rVec)

/-- The command UPD, run to its end, is the software function `update` (R196) on the operands. -/
def Obligations.UpdCommandIsUpdate : Prop :=
  ∀ (s : State) (qdef : Bool), s.phase = .idle →
    ∃ t, runCommand ⟨.upd, qdef⟩ s = .next t ∧ t.phase = .idle ∧
      (∀ w, updCall Config.hash qdef s = .ok w → t.status = 0x02 ∧ t.rVec = w) ∧
      (∀ e, updCall Config.hash qdef s = .error e → wrapperError t.status = some e ∧ t.rVec = s.rVec)

/-- R197: update composition, for the functions with any q and for the commands with valid and invalid parameters. -/
def Obligations.UpdateIsAccumulateOfTheXor : Prop :=
  (∀ (hash : List Byte → Word) (acc : Container) (v stepIdx numRows seed q : Word),
    update hash acc v stepIdx numRows seed q =
      accumulate hash ((acc.w0 ^^^ acc.w1 ^^^ acc.w2 ^^^ acc.w3) ^^^ v) stepIdx numRows seed q) ∧
  (∀ (s : State) (qdef : Bool), s.phase = .idle →
    ∃ t u, runCommand ⟨.upd, qdef⟩ s = .next t ∧
      runCommand ⟨.acc, qdef⟩ { s with x := (s.a0 ^^^ s.a1 ^^^ s.a2 ^^^ s.a3) ^^^ s.x } = .next u ∧
      t.rVec = u.rVec ∧ t.status = u.status)

/-- R42: a command's outcome and results are a function of its word and of the operand registers it reads: in two IDLE
states that agree on those, and differ anyhow else, the outcomes are equal and so are the results it writes. -/
def Obligations.CommandDependsOnlyOnWhatItReads : Prop :=
  ∀ (c : Command) (s s' : State), c.wellFormed = true → s.phase = .idle → s'.phase = .idle →
    (∀ o, o ∈ c.reads → s.operand o = s'.operand o) →
    ∃ t t', runCommand c s = .next t ∧ runCommand c s' = .next t' ∧ t.status = t'.status ∧
      t.phase = .idle ∧ t'.phase = .idle ∧
      (t.status = 0x02 → ∀ r, r ∈ c.writes → t.result r = t'.result r)

/-- Running the same valid command again, its operands unchanged, leaves the same result and the same `STATUS` (R75). -/
def Obligations.RepeatedCommandGivesTheSameResult : Prop :=
  ∀ (c : Command) (s t : State), c.wellFormed = true → s.phase = .idle → runCommand c s = .next t →
    ∃ u, runCommand c t = .next u ∧ u.status = t.status ∧ ∀ r, u.result r = t.result r

/-- R247: an operand write offered after an accepted command is held, the command completes on the old operands, and
then the write lands, the results staying as they are. The order of the turns is the model's agenda (logs 4, 5). -/
def Obligations.OperandWriteAfterCommandIsLate : Prop :=
  ∀ (s : State) (o : OperandReg) (v : Word) (rest : List Turn), ControlInv s → s.phase = .busy → s.held = none →
    s.agenda = .host ⟨true, o.addr, v⟩ :: .engine :: rest → rest.head? ≠ some .reset →
    ∃ t₁ t₂ t₃, step s = .next t₁ ∧ (∀ o', t₁.operand o' = s.operand o') ∧ t₁.phase = .busy ∧
      step t₁ = .next t₂ ∧ t₂.phase = .idle ∧ (∀ o', t₂.operand o' = s.operand o') ∧
      (∀ r u, complete Config.hash s = .next u → t₂.result r = u.result r) ∧
      step t₂ = .next t₃ ∧ t₃.operand o = v ∧ (∀ r, t₃.result r = t₂.result r)

/-! ## Invariants -/

/-- Every step keeps the control invariant: `STATUS` has one of its seven values and says BUSY exactly in BUSY, the
command in progress has valid parameters, a read of `STATUS` is never held. -/
def Obligations.EveryStepKeepsTheControlInvariant : Prop :=
  ∀ s t : State, ControlInv s → step s = .next t → ControlInv t

/-- Every step keeps every lane of `R0..R3` below 65521. -/
def Obligations.EveryStepKeepsResultLanesInRange : Prop :=
  ∀ s t : State, ResultLanesInRange s → step s = .next t → ResultLanesInRange t

/-- R146: nothing fails. In the control invariant every step answers a next state, and a command in progress
completes with outcome OK. -/
def Obligations.SafeStatesAlwaysStep : Prop :=
  ∀ s : State, ControlInv s →
    (∃ t, step s = .next t) ∧ (s.phase = .busy → ∃ t, engineStep s = .next t ∧ t.status = 0x02 ∧ t.phase = .idle)

/-! ## MRD -/

/-- R15: `be32` is 32 bytes, byte i being bits 255-8i : 248-8i, and denotes its argument in base 256. -/
def Obligations.Be32IsBigEndian : Prop :=
  ∀ v : Word, (be32 v).length = 32 ∧
    (∀ i, i < 32 → (be32 v)[i]? = some (BitVec.ofNat 8 (v.toNat / 2 ^ (248 - 8 * i)))) ∧
    (be32 v).foldl (fun n b => n * 256 + b.toNat) 0 = v.toNat

/-- R121, R122: the two messages given to `HASH`, of 96 and 64 bytes. -/
def Obligations.HashMessagesAreFixedWidth : Prop :=
  ∀ (hash : List Byte → Word) (seed stepIdx row rs : Word) (b : Nat),
    (∃ m, m.length = 96 ∧ m.take 32 = be32 seed ∧ (m.drop 32).take 32 = be32 stepIdx ∧ m.drop 64 = be32 row ∧
      rowSeed hash seed stepIdx row = hash m) ∧
    (∃ m, m.length = 64 ∧ m.take 32 = be32 rs ∧ m.drop 32 = be32 (BitVec.ofNat 256 b) ∧
      blockDigest hash rs b = hash m)

/-- R123: lane k is `(d >> 16k) & 0xFFFF`, and the 16 lanes partition the digest. -/
def Obligations.LaneIsShiftAndMask : Prop :=
  (∀ (d : Word) (k : Nat), k < 16 → (lane d k).toNat = ((d >>> (16 * k)) &&& 0xFFFF).toNat) ∧
  (∀ d : Word, d.toNat = ((List.range 16).map fun k => (lane d k).toNat * 2 ^ (16 * k)).sum)

/-- R124: `deriveRow` has N coefficients, column c from lane `c mod 16` of block `c div 16`, reduced. -/
def Obligations.DeriveRowTakesLanesInOrder : Prop :=
  ∀ (hash : List Byte → Word) (seed stepIdx row : Word) (n : Dim) (q : Modulus),
    (deriveRow hash seed stepIdx row n q).length = n.val ∧
    ∀ c, c < n.val → (deriveRow hash seed stepIdx row n q)[c]? =
      some ((lane (blockDigest hash (rowSeed hash seed stepIdx row) (c / 16)) (c % 16)).toNat % q.val)

/-- R125: a row uses the lanes below N of the digests of blocks 0 .. ceil(N/16) - 1, at most four, and nothing else
of the hash. -/
def Obligations.RowUsesOnlyItsBlocks : Prop :=
  ∀ (hash hash' : List Byte → Word) (seed stepIdx row : Word) (n : Dim) (q : Modulus),
    rowSeed hash seed stepIdx row = rowSeed hash' seed stepIdx row →
    (∀ b k, b < (n.val + 15) / 16 → k < 16 → 16 * b + k < n.val →
      lane (blockDigest hash (rowSeed hash seed stepIdx row) b) k =
        lane (blockDigest hash' (rowSeed hash seed stepIdx row) b) k) →
    deriveRow hash seed stepIdx row n q = deriveRow hash' seed stepIdx row n q ∧ (n.val + 15) / 16 ≤ 4

/-- R126: a coefficient is the exact remainder of its lane; for q = 65521 the remainder is the lane, or the lane less 65521 (at most 14); for q = 2 it is bit 0. -/
def Obligations.ReductionAtTheGreatestAndLeastModulus : Prop :=
  ∀ (hash : List Byte → Word) (seed stepIdx row : Word) (c : Nat) (q : Modulus) (l : Lane),
    l = lane (blockDigest hash (rowSeed hash seed stepIdx row) (c / 16)) (c % 16) →
    coef hash seed stepIdx row c q = l.toNat % q.val ∧
    (q.val = 65521 → l.toNat < 65521 → coef hash seed stepIdx row c q = l.toNat) ∧
    (q.val = 65521 → 65521 ≤ l.toNat →
      coef hash seed stepIdx row c q = l.toNat - 65521 ∧ coef hash seed stepIdx row c q ≤ 14) ∧
    (q.val = 2 → coef hash seed stepIdx row c q = (l.getLsbD 0).toNat)

/-- R128: every coefficient is below q, hence at most 65520. -/
def Obligations.CoefficientsAreBelowTheModulus : Prop :=
  ∀ (hash : List Byte → Word) (seed stepIdx row : Word) (n : Dim) (q : Modulus) (a : Nat),
    a ∈ deriveRow hash seed stepIdx row n q → a < q.val ∧ a ≤ 65520

/-- R129: a coefficient does not depend on N: the shorter row is the start of the longer. -/
def Obligations.RowDoesNotDependOnTheDimension : Prop :=
  ∀ (hash : List Byte → Word) (seed stepIdx row : Word) (n n' : Dim) (q : Modulus), n.val ≤ n'.val →
    deriveRow hash seed stepIdx row n q = (deriveRow hash seed stepIdx row n' q).take n.val

/-! ## MAC -/

/-- R151: column c is selected when bit c of x is 1, and bits of x from position N on are ignored. -/
def Obligations.HigherInputBitsAreIgnored : Prop :=
  ∀ (hash : List Byte → Word) (x stepIdx : Word) (n : Dim) (seed : Word) (q : Modulus),
    (∀ r, r < n.val → (accumulateVec hash x stepIdx n seed q)[r]? =
      some (((List.range n.val).map fun c =>
        if x.toNat / 2 ^ c % 2 = 1 then coef hash seed stepIdx (BitVec.ofNat 256 r) c q else 0).sum % q.val)) ∧
    accumulateVec hash x stepIdx n seed q =
      accumulateVec hash (BitVec.ofNat 256 (x.toNat % 2 ^ n.val)) stepIdx n seed q

/-- R153: on columns below q the running sum with one conditional subtraction, the full remainder at each step and the
remainder of the whole sum agree; the whole sum is at most 4193280, and the running sum stays below q (R152). -/
def Obligations.ThreeReductionMethodsAgree : Prop :=
  ∀ (q : Nat) (x : Word) (c : Nat) (as : List Nat), 0 < q → (∀ a, a ∈ as → a < q) →
    runningSum q x c 0 as = selectedSum x c as % q ∧
    remainderSum q x c 0 as = selectedSum x c as % q ∧
    (∀ k, runningSum q x c 0 (as.take k) < q) ∧
    (q ≤ 65521 → as.length ≤ 64 → selectedSum x c as ≤ 4193280)

/-- R154: an input whose low N bits are 0 gives the all-zero vector, unpacked and packed; N = 1 gives the single coefficient or 0. -/
def Obligations.ZeroInputGivesTheZeroVector : Prop :=
  ∀ (hash : List Byte → Word) (x stepIdx : Word) (n : Dim) (seed : Word) (q : Modulus),
    (x.toNat % 2 ^ n.val = 0 → accumulateVec hash x stepIdx n seed q = List.replicate n.val 0 ∧
      accumulate hash x stepIdx (BitVec.ofNat 256 n.val) seed (BitVec.ofNat 256 q.val) = .ok ⟨0, 0, 0, 0⟩) ∧
    (n.val = 1 → accumulateVec hash x stepIdx n seed q =
      [if x.getLsbD 0 then (lane (blockDigest hash (rowSeed hash seed stepIdx 0) 0) 0).toNat % q.val else 0])

/-- R155: there are N output elements, each below q, hence at most 65520. -/
def Obligations.OutputElementsAreBelowTheModulus : Prop :=
  ∀ (hash : List Byte → Word) (x stepIdx : Word) (n : Dim) (seed : Word) (q : Modulus),
    (accumulateVec hash x stepIdx n seed q).length = n.val ∧
    ∀ y, y ∈ accumulateVec hash x stepIdx n seed q → y < q.val ∧ y ≤ 65520

/-- R157: the map is linear on inputs with no common bit below N, and a single bit selects a column of the matrix. -/
def Obligations.AccumulationIsLinear : Prop :=
  ∀ (hash : List Byte → Word) (stepIdx : Word) (n : Dim) (seed : Word) (q : Modulus) (r : Nat), r < n.val →
    (∀ x x' : Word, (∀ c, c < n.val → (x.getLsbD c && x'.getLsbD c) = false) →
      (accumulateVec hash (x ||| x') stepIdx n seed q).getD r 0 =
        ((accumulateVec hash x stepIdx n seed q).getD r 0 +
          (accumulateVec hash x' stepIdx n seed q).getD r 0) % q.val) ∧
    (∀ c, c < n.val → (accumulateVec hash (BitVec.ofNat 256 (2 ^ c)) stepIdx n seed q).getD r 0 =
      coef hash seed stepIdx (BitVec.ofNat 256 r) c q)

/-- The sequencer of R39, working column by column in a 17-bit sum from any scratch, leaves in `Y` the elements that
R150 and R124 define, with a sum below q. (The form of the scratch is the model's choice, log 3.) -/
def Obligations.SequencerComputesTheElements : Prop :=
  ∀ (hash : List Byte → Word) (x stepIdx seed row : Word) (n : Dim) (q : Modulus) (t : Scratch),
    (∀ r, r < n.val → ((t.accumulate hash x stepIdx n seed q).y[r]?.map BitVec.toNat) =
      (accumulateVec hash x stepIdx n seed q)[r]?) ∧
    (t.accumulate hash x stepIdx n seed q).sum.toNat < q.val ∧
    (∀ c, c < n.val → ((t.derive hash seed stepIdx row n q).y[c]?.map BitVec.toNat) =
      (deriveRow hash seed stepIdx row n q)[c]?)

/-! ## PCK, XRC -/

/-- R171, R173, R174: element 16i + j is in lane j of word i, masked to 16 bits; every other lane is 0, and so is
every word from ceil(N/16) on. -/
def Obligations.PackPlacesEachElementInItsLane : Prop :=
  ∀ ys : List Nat, ys.length ≤ 64 →
    (∀ i j, i < 4 → j < 16 → (lane ((pack ys).word i) j).toNat = ys.getD (16 * i + j) 0 % 2 ^ 16) ∧
    (∀ i, i < 4 → (ys.length + 15) / 16 ≤ i → (pack ys).word i = 0)

/-- R176: unpacking a packed vector gives it back when its elements fit 16 bits; packing an unpacked container gives it
back for N = 64, and for a smaller N exactly when the lanes from N on are 0. -/
def Obligations.PackUnpackRoundTrip : Prop :=
  (∀ ys : List Nat, ys.length ≤ 64 → (∀ y, y ∈ ys → y < 2 ^ 16) → unpack (pack ys) ys.length = ys) ∧
  (∀ w : Container, pack (unpack w 64) = w) ∧
  (∀ (w : Container) (n : Nat), n ≤ 64 → (pack (unpack w n) = w ↔
    ∀ r, n ≤ r → r < 64 → lane (w.word (r / 16)) (r % 16) = 0))

/-- R186, R187: `combine` XORs bit by bit and lane by lane, in any order; with three zero words it is the fourth, equal
pairs cancel, and it is not injective. -/
def Obligations.CombineIsTheXorOfTheWords : Prop :=
  (∀ (w : Container) (i : Nat), (combine w).getLsbD i =
    ((w.w0.getLsbD i ^^ w.w1.getLsbD i) ^^ (w.w2.getLsbD i ^^ w.w3.getLsbD i))) ∧
  (∀ (w : Container) (j : Nat),
    lane (combine w) j = lane w.w0 j ^^^ lane w.w1 j ^^^ lane w.w2 j ^^^ lane w.w3 j) ∧
  (∀ (w : Container) (ws : List Word), ws.Perm [w.w0, w.w1, w.w2, w.w3] → combine w = ws.foldl (· ^^^ ·) 0) ∧
  (∀ v w : Word, combine ⟨w, 0, 0, 0⟩ = w ∧ combine ⟨w, w, v, v⟩ = 0) ∧
  (∃ w w' : Container, w ≠ w' ∧ combine w = combine w')
end

