-- ==== Sys2Proof/Laws/Config.lean ====
section
/-! SUPPORT. The ranges that `Dim` and `Modulus` carry, as numerals, and what the range checks say. -/

namespace Sys2Proof.Machine

theorem Dim.pos (n : Dim) : 1 ≤ n.val := n.property.1
theorem Dim.le (n : Dim) : n.val ≤ 64 := n.property.2
theorem Modulus.two_le (q : Modulus) : 2 ≤ q.val := q.property.1
theorem Modulus.le (q : Modulus) : q.val ≤ 65521 := q.property.2

/-- `dim?` gives exactly the valid dimensions. -/
theorem dim?_eq_some {v : Word} {n : Dim} : dim? v = some n ↔ v.toNat = n.val := by
  obtain ⟨n, hn⟩ := n
  unfold dim?
  split
  · simp
  · rename_i h
    constructor
    · intro h'; cases h'
    · intro h'; exact absurd (by simpa [h'] using hn) h

/-- `modulus?` gives exactly the valid moduli. -/
theorem modulus?_eq_some {v : Word} {q : Modulus} : modulus? v = some q ↔ v.toNat = q.val := by
  obtain ⟨q, hq⟩ := q
  unfold modulus?
  split
  · simp
  · rename_i h
    constructor
    · intro h'; cases h'
    · intro h'; exact absurd (by simpa [h'] using hq) h

/-- `dimErr` is the failure of `dim?` (R142). -/
theorem dimErr_eq (v : Word) : dimErr v = (dim? v).isNone := by
  unfold dimErr dim?
  split
  · rename_i h; simp [Nat.not_lt.mpr h.1, Nat.not_lt.mpr h.2]
  · rename_i h; simp only [Option.isNone_none, Bool.or_eq_true, decide_eq_true_eq]; omega

/-- `modErr` is the failure of `modulus?` (R143). -/
theorem modErr_eq (v : Word) : modErr v = (modulus? v).isNone := by
  unfold modErr modulus?
  split
  · rename_i h; simp [Nat.not_lt.mpr h.1, Nat.not_lt.mpr h.2]
  · rename_i h; simp only [Option.isNone_none, Bool.or_eq_true, decide_eq_true_eq]; omega

/-- The effective modulus as a number (R43). -/
theorem State.qEff_toNat (s : State) (qdef : Bool) :
    (s.qEff qdef).toNat = if qdef then 65521 else s.q.toNat := by
  cases qdef <;> rfl

end Sys2Proof.Machine
end

