-- ==== Sys2Proof/Laws/Decode.lean ====
section
/-! SUPPORT. What the decoder of command words answers, said once. -/

namespace Sys2Proof

/-- A word is determined by the four fields of R91. -/
theorem word_ext_fields {v w : Word} (h0 : opField v = opField w) (h1 : z1Field v = z1Field w)
    (h2 : qdefField v = qdefField w) (h3 : z2Field v = z2Field w) : v = w := by
  apply BitVec.eq_of_getLsbD_eq
  intro i hi
  by_cases h : i < 4
  · simpa [opField, BitVec.getLsbD_extractLsb', h] using congrArg (·.getLsbD i) h0
  by_cases h' : i < 8
  · have := congrArg (·.getLsbD (i - 4)) h1
    simpa [z1Field, BitVec.getLsbD_extractLsb', show i - 4 < 4 by omega, show 4 + (i - 4) = i by omega] using this
  by_cases h'' : i = 8
  · subst h''; exact h2
  · have := congrArg (·.getLsbD (i - 9)) h3
    simpa [z2Field, BitVec.getLsbD_extractLsb', show i - 9 < 247 by omega, show 9 + (i - 9) = i by omega] using this

/-- A well-formed command's word decodes to it. -/
theorem decodeCommand_encodeCommand (c : Command) (h : c.wellFormed = true) :
    decodeCommand (encodeCommand c) = .ok c := by
  obtain ⟨op, qdef⟩ := c
  cases op <;> cases qdef <;> first | rfl | cases h

/-- What decodes is well formed, and its word is the one that was decoded. -/
theorem encodeCommand_of_decodeCommand {w : Word} {c : Command} (h : decodeCommand w = .ok c) :
    c.wellFormed = true ∧ encodeCommand c = w := by
  unfold decodeCommand at h
  split at h
  · cases h
  · rename_i hz
    simp only [not_or, ne_eq, Decidable.not_not] at hz
    split at h
    all_goals first | (cases h; done) | skip
    all_goals
      injection h with h
      subst h
      refine ⟨rfl, (word_ext_fields ?_ ?_ ?_ ?_).symm⟩
      · apply BitVec.eq_of_toNat_eq
        rw [‹(opField w).toNat = _›]
        first | rfl | (cases qdefField w <;> rfl)
      · rw [hz.2]
        first | rfl | (cases qdefField w <;> rfl)
      · first | (rw [‹qdefField w = _›]; rfl) | (cases qdefField w <;> rfl)
      · rw [hz.1]
        first | rfl | (cases qdefField w <;> rfl)

/-- The request a packed transaction encodes is read back whole (R98). -/
theorem Request.ofBits_toBits (t : Request) : Request.ofBits t.toBits = t := by
  obtain ⟨write, addr, wdata⟩ := t
  unfold Request.ofBits Request.toBits
  congr 1
  · rw [BitVec.getLsbD_cast, BitVec.getLsbD_append, BitVec.getLsbD_append]
    simp
  · apply BitVec.eq_of_getLsbD_eq
    intro i hi
    rw [BitVec.getLsbD_extractLsb', BitVec.getLsbD_cast, BitVec.getLsbD_append, BitVec.getLsbD_append]
    simp [hi]
  · apply BitVec.eq_of_getLsbD_eq
    intro i hi
    rw [BitVec.getLsbD_extractLsb', BitVec.getLsbD_cast, BitVec.getLsbD_append]
    simp [hi]

end Sys2Proof
end

