-- ==== Sys2Proof/Laws/State.lean ====
section
/-! SUPPORT. One lemma per field per update of State, so that no proof unfolds a record update; what the accessors by
register name give after an update. -/

namespace Sys2Proof.Machine

variable (s : State)

@[simp] theorem State.respond_nrows (v : Option Word) : (s.respond v).nrows = s.nrows := rfl
@[simp] theorem State.respond_q (v : Option Word) : (s.respond v).q = s.q := rfl
@[simp] theorem State.respond_stepIdx (v : Option Word) : (s.respond v).stepIdx = s.stepIdx := rfl
@[simp] theorem State.respond_seed (v : Option Word) : (s.respond v).seed = s.seed := rfl
@[simp] theorem State.respond_x (v : Option Word) : (s.respond v).x = s.x := rfl
@[simp] theorem State.respond_row (v : Option Word) : (s.respond v).row = s.row := rfl
@[simp] theorem State.respond_a0 (v : Option Word) : (s.respond v).a0 = s.a0 := rfl
@[simp] theorem State.respond_a1 (v : Option Word) : (s.respond v).a1 = s.a1 := rfl
@[simp] theorem State.respond_a2 (v : Option Word) : (s.respond v).a2 = s.a2 := rfl
@[simp] theorem State.respond_a3 (v : Option Word) : (s.respond v).a3 = s.a3 := rfl
@[simp] theorem State.respond_r0 (v : Option Word) : (s.respond v).r0 = s.r0 := rfl
@[simp] theorem State.respond_r1 (v : Option Word) : (s.respond v).r1 = s.r1 := rfl
@[simp] theorem State.respond_r2 (v : Option Word) : (s.respond v).r2 = s.r2 := rfl
@[simp] theorem State.respond_r3 (v : Option Word) : (s.respond v).r3 = s.r3 := rfl
@[simp] theorem State.respond_xr (v : Option Word) : (s.respond v).xr = s.xr := rfl
@[simp] theorem State.respond_status (v : Option Word) : (s.respond v).status = s.status := rfl
@[simp] theorem State.respond_phase (v : Option Word) : (s.respond v).phase = s.phase := rfl
@[simp] theorem State.respond_cur (v : Option Word) : (s.respond v).cur = s.cur := rfl
@[simp] theorem State.respond_scratch (v : Option Word) : (s.respond v).scratch = s.scratch := rfl
@[simp] theorem State.respond_held (v : Option Word) : (s.respond v).held = s.held := rfl
@[simp] theorem State.respond_rsp (v : Option Word) : (s.respond v).rsp = v := rfl
@[simp] theorem State.respond_agenda (v : Option Word) : (s.respond v).agenda = s.agenda := rfl
@[simp] theorem State.respond_operand (v : Option Word) (o : OperandReg) : (s.respond v).operand o = s.operand o := rfl
@[simp] theorem State.respond_result (v : Option Word) (r : ResultReg) : (s.respond v).result r = s.result r := rfl
@[simp] theorem State.respond_rVec (v : Option Word) : (s.respond v).rVec = s.rVec := rfl
@[simp] theorem State.respond_aVec (v : Option Word) : (s.respond v).aVec = s.aVec := rfl
@[simp] theorem State.respond_qEff (v : Option Word) (qdef : Bool) : (s.respond v).qEff qdef = s.qEff qdef := rfl

@[simp] theorem State.hold_nrows (t : Request) : (s.hold t).nrows = s.nrows := rfl
@[simp] theorem State.hold_q (t : Request) : (s.hold t).q = s.q := rfl
@[simp] theorem State.hold_stepIdx (t : Request) : (s.hold t).stepIdx = s.stepIdx := rfl
@[simp] theorem State.hold_seed (t : Request) : (s.hold t).seed = s.seed := rfl
@[simp] theorem State.hold_x (t : Request) : (s.hold t).x = s.x := rfl
@[simp] theorem State.hold_row (t : Request) : (s.hold t).row = s.row := rfl
@[simp] theorem State.hold_a0 (t : Request) : (s.hold t).a0 = s.a0 := rfl
@[simp] theorem State.hold_a1 (t : Request) : (s.hold t).a1 = s.a1 := rfl
@[simp] theorem State.hold_a2 (t : Request) : (s.hold t).a2 = s.a2 := rfl
@[simp] theorem State.hold_a3 (t : Request) : (s.hold t).a3 = s.a3 := rfl
@[simp] theorem State.hold_r0 (t : Request) : (s.hold t).r0 = s.r0 := rfl
@[simp] theorem State.hold_r1 (t : Request) : (s.hold t).r1 = s.r1 := rfl
@[simp] theorem State.hold_r2 (t : Request) : (s.hold t).r2 = s.r2 := rfl
@[simp] theorem State.hold_r3 (t : Request) : (s.hold t).r3 = s.r3 := rfl
@[simp] theorem State.hold_xr (t : Request) : (s.hold t).xr = s.xr := rfl
@[simp] theorem State.hold_status (t : Request) : (s.hold t).status = s.status := rfl
@[simp] theorem State.hold_phase (t : Request) : (s.hold t).phase = s.phase := rfl
@[simp] theorem State.hold_cur (t : Request) : (s.hold t).cur = s.cur := rfl
@[simp] theorem State.hold_scratch (t : Request) : (s.hold t).scratch = s.scratch := rfl
@[simp] theorem State.hold_held (t : Request) : (s.hold t).held = some t := rfl
@[simp] theorem State.hold_rsp (t : Request) : (s.hold t).rsp = none := rfl
@[simp] theorem State.hold_agenda (t : Request) : (s.hold t).agenda = s.agenda := rfl
@[simp] theorem State.hold_operand (t : Request) (o : OperandReg) : (s.hold t).operand o = s.operand o := rfl
@[simp] theorem State.hold_result (t : Request) (r : ResultReg) : (s.hold t).result r = s.result r := rfl
@[simp] theorem State.hold_rVec (t : Request) : (s.hold t).rVec = s.rVec := rfl
@[simp] theorem State.hold_aVec (t : Request) : (s.hold t).aVec = s.aVec := rfl
@[simp] theorem State.hold_qEff (t : Request) (qdef : Bool) : (s.hold t).qEff qdef = s.qEff qdef := rfl

@[simp] theorem State.raise_nrows (v : Word) : (s.raise v).nrows = s.nrows := rfl
@[simp] theorem State.raise_q (v : Word) : (s.raise v).q = s.q := rfl
@[simp] theorem State.raise_stepIdx (v : Word) : (s.raise v).stepIdx = s.stepIdx := rfl
@[simp] theorem State.raise_seed (v : Word) : (s.raise v).seed = s.seed := rfl
@[simp] theorem State.raise_x (v : Word) : (s.raise v).x = s.x := rfl
@[simp] theorem State.raise_row (v : Word) : (s.raise v).row = s.row := rfl
@[simp] theorem State.raise_a0 (v : Word) : (s.raise v).a0 = s.a0 := rfl
@[simp] theorem State.raise_a1 (v : Word) : (s.raise v).a1 = s.a1 := rfl
@[simp] theorem State.raise_a2 (v : Word) : (s.raise v).a2 = s.a2 := rfl
@[simp] theorem State.raise_a3 (v : Word) : (s.raise v).a3 = s.a3 := rfl
@[simp] theorem State.raise_r0 (v : Word) : (s.raise v).r0 = s.r0 := rfl
@[simp] theorem State.raise_r1 (v : Word) : (s.raise v).r1 = s.r1 := rfl
@[simp] theorem State.raise_r2 (v : Word) : (s.raise v).r2 = s.r2 := rfl
@[simp] theorem State.raise_r3 (v : Word) : (s.raise v).r3 = s.r3 := rfl
@[simp] theorem State.raise_xr (v : Word) : (s.raise v).xr = s.xr := rfl
@[simp] theorem State.raise_status (v : Word) : (s.raise v).status = v := rfl
@[simp] theorem State.raise_phase (v : Word) : (s.raise v).phase = s.phase := rfl
@[simp] theorem State.raise_cur (v : Word) : (s.raise v).cur = s.cur := rfl
@[simp] theorem State.raise_scratch (v : Word) : (s.raise v).scratch = s.scratch := rfl
@[simp] theorem State.raise_held (v : Word) : (s.raise v).held = s.held := rfl
@[simp] theorem State.raise_rsp (v : Word) : (s.raise v).rsp = s.rsp := rfl
@[simp] theorem State.raise_agenda (v : Word) : (s.raise v).agenda = s.agenda := rfl
@[simp] theorem State.raise_operand (v : Word) (o : OperandReg) : (s.raise v).operand o = s.operand o := rfl
@[simp] theorem State.raise_result (v : Word) (r : ResultReg) : (s.raise v).result r = s.result r := rfl
@[simp] theorem State.raise_rVec (v : Word) : (s.raise v).rVec = s.rVec := rfl
@[simp] theorem State.raise_aVec (v : Word) : (s.raise v).aVec = s.aVec := rfl
@[simp] theorem State.raise_qEff (v : Word) (qdef : Bool) : (s.raise v).qEff qdef = s.qEff qdef := rfl

@[simp] theorem State.start_nrows (c : Command) : (s.start c).nrows = s.nrows := rfl
@[simp] theorem State.start_q (c : Command) : (s.start c).q = s.q := rfl
@[simp] theorem State.start_stepIdx (c : Command) : (s.start c).stepIdx = s.stepIdx := rfl
@[simp] theorem State.start_seed (c : Command) : (s.start c).seed = s.seed := rfl
@[simp] theorem State.start_x (c : Command) : (s.start c).x = s.x := rfl
@[simp] theorem State.start_row (c : Command) : (s.start c).row = s.row := rfl
@[simp] theorem State.start_a0 (c : Command) : (s.start c).a0 = s.a0 := rfl
@[simp] theorem State.start_a1 (c : Command) : (s.start c).a1 = s.a1 := rfl
@[simp] theorem State.start_a2 (c : Command) : (s.start c).a2 = s.a2 := rfl
@[simp] theorem State.start_a3 (c : Command) : (s.start c).a3 = s.a3 := rfl
@[simp] theorem State.start_r0 (c : Command) : (s.start c).r0 = s.r0 := rfl
@[simp] theorem State.start_r1 (c : Command) : (s.start c).r1 = s.r1 := rfl
@[simp] theorem State.start_r2 (c : Command) : (s.start c).r2 = s.r2 := rfl
@[simp] theorem State.start_r3 (c : Command) : (s.start c).r3 = s.r3 := rfl
@[simp] theorem State.start_xr (c : Command) : (s.start c).xr = s.xr := rfl
@[simp] theorem State.start_status (c : Command) : (s.start c).status = statusBusy := rfl
@[simp] theorem State.start_phase (c : Command) : (s.start c).phase = .busy := rfl
@[simp] theorem State.start_cur (c : Command) : (s.start c).cur = c := rfl
@[simp] theorem State.start_scratch (c : Command) : (s.start c).scratch = s.scratch := rfl
@[simp] theorem State.start_held (c : Command) : (s.start c).held = s.held := rfl
@[simp] theorem State.start_rsp (c : Command) : (s.start c).rsp = s.rsp := rfl
@[simp] theorem State.start_agenda (c : Command) : (s.start c).agenda = s.agenda := rfl
@[simp] theorem State.start_operand (c : Command) (o : OperandReg) : (s.start c).operand o = s.operand o := rfl
@[simp] theorem State.start_result (c : Command) (r : ResultReg) : (s.start c).result r = s.result r := rfl
@[simp] theorem State.start_rVec (c : Command) : (s.start c).rVec = s.rVec := rfl
@[simp] theorem State.start_aVec (c : Command) : (s.start c).aVec = s.aVec := rfl
@[simp] theorem State.start_qEff (c : Command) (qdef : Bool) : (s.start c).qEff qdef = s.qEff qdef := rfl

@[simp] theorem State.finish_nrows : (s.finish).nrows = s.nrows := rfl
@[simp] theorem State.finish_q : (s.finish).q = s.q := rfl
@[simp] theorem State.finish_stepIdx : (s.finish).stepIdx = s.stepIdx := rfl
@[simp] theorem State.finish_seed : (s.finish).seed = s.seed := rfl
@[simp] theorem State.finish_x : (s.finish).x = s.x := rfl
@[simp] theorem State.finish_row : (s.finish).row = s.row := rfl
@[simp] theorem State.finish_a0 : (s.finish).a0 = s.a0 := rfl
@[simp] theorem State.finish_a1 : (s.finish).a1 = s.a1 := rfl
@[simp] theorem State.finish_a2 : (s.finish).a2 = s.a2 := rfl
@[simp] theorem State.finish_a3 : (s.finish).a3 = s.a3 := rfl
@[simp] theorem State.finish_r0 : (s.finish).r0 = s.r0 := rfl
@[simp] theorem State.finish_r1 : (s.finish).r1 = s.r1 := rfl
@[simp] theorem State.finish_r2 : (s.finish).r2 = s.r2 := rfl
@[simp] theorem State.finish_r3 : (s.finish).r3 = s.r3 := rfl
@[simp] theorem State.finish_xr : (s.finish).xr = s.xr := rfl
@[simp] theorem State.finish_status : (s.finish).status = statusOk := rfl
@[simp] theorem State.finish_phase : (s.finish).phase = .idle := rfl
@[simp] theorem State.finish_cur : (s.finish).cur = s.cur := rfl
@[simp] theorem State.finish_scratch : (s.finish).scratch = s.scratch := rfl
@[simp] theorem State.finish_held : (s.finish).held = s.held := rfl
@[simp] theorem State.finish_rsp : (s.finish).rsp = s.rsp := rfl
@[simp] theorem State.finish_agenda : (s.finish).agenda = s.agenda := rfl
@[simp] theorem State.finish_operand (o : OperandReg) : (s.finish).operand o = s.operand o := rfl
@[simp] theorem State.finish_result (r : ResultReg) : (s.finish).result r = s.result r := rfl
@[simp] theorem State.finish_rVec : (s.finish).rVec = s.rVec := rfl
@[simp] theorem State.finish_aVec : (s.finish).aVec = s.aVec := rfl
@[simp] theorem State.finish_qEff (qdef : Bool) : (s.finish).qEff qdef = s.qEff qdef := rfl

@[simp] theorem State.setResult_nrows (w : Container) : (s.setResult w).nrows = s.nrows := rfl
@[simp] theorem State.setResult_q (w : Container) : (s.setResult w).q = s.q := rfl
@[simp] theorem State.setResult_stepIdx (w : Container) : (s.setResult w).stepIdx = s.stepIdx := rfl
@[simp] theorem State.setResult_seed (w : Container) : (s.setResult w).seed = s.seed := rfl
@[simp] theorem State.setResult_x (w : Container) : (s.setResult w).x = s.x := rfl
@[simp] theorem State.setResult_row (w : Container) : (s.setResult w).row = s.row := rfl
@[simp] theorem State.setResult_a0 (w : Container) : (s.setResult w).a0 = s.a0 := rfl
@[simp] theorem State.setResult_a1 (w : Container) : (s.setResult w).a1 = s.a1 := rfl
@[simp] theorem State.setResult_a2 (w : Container) : (s.setResult w).a2 = s.a2 := rfl
@[simp] theorem State.setResult_a3 (w : Container) : (s.setResult w).a3 = s.a3 := rfl
@[simp] theorem State.setResult_r0 (w : Container) : (s.setResult w).r0 = w.w0 := rfl
@[simp] theorem State.setResult_r1 (w : Container) : (s.setResult w).r1 = w.w1 := rfl
@[simp] theorem State.setResult_r2 (w : Container) : (s.setResult w).r2 = w.w2 := rfl
@[simp] theorem State.setResult_r3 (w : Container) : (s.setResult w).r3 = w.w3 := rfl
@[simp] theorem State.setResult_xr (w : Container) : (s.setResult w).xr = s.xr := rfl
@[simp] theorem State.setResult_status (w : Container) : (s.setResult w).status = s.status := rfl
@[simp] theorem State.setResult_phase (w : Container) : (s.setResult w).phase = s.phase := rfl
@[simp] theorem State.setResult_cur (w : Container) : (s.setResult w).cur = s.cur := rfl
@[simp] theorem State.setResult_scratch (w : Container) : (s.setResult w).scratch = s.scratch := rfl
@[simp] theorem State.setResult_held (w : Container) : (s.setResult w).held = s.held := rfl
@[simp] theorem State.setResult_rsp (w : Container) : (s.setResult w).rsp = s.rsp := rfl
@[simp] theorem State.setResult_agenda (w : Container) : (s.setResult w).agenda = s.agenda := rfl
@[simp] theorem State.setResult_operand (w : Container) (o : OperandReg) : (s.setResult w).operand o = s.operand o := rfl
@[simp] theorem State.setResult_rVec (w : Container) : (s.setResult w).rVec = w := rfl
@[simp] theorem State.setResult_aVec (w : Container) : (s.setResult w).aVec = s.aVec := rfl
@[simp] theorem State.setResult_qEff (w : Container) (qdef : Bool) : (s.setResult w).qEff qdef = s.qEff qdef := rfl

@[simp] theorem State.setXr_nrows (v : Word) : (s.setXr v).nrows = s.nrows := rfl
@[simp] theorem State.setXr_q (v : Word) : (s.setXr v).q = s.q := rfl
@[simp] theorem State.setXr_stepIdx (v : Word) : (s.setXr v).stepIdx = s.stepIdx := rfl
@[simp] theorem State.setXr_seed (v : Word) : (s.setXr v).seed = s.seed := rfl
@[simp] theorem State.setXr_x (v : Word) : (s.setXr v).x = s.x := rfl
@[simp] theorem State.setXr_row (v : Word) : (s.setXr v).row = s.row := rfl
@[simp] theorem State.setXr_a0 (v : Word) : (s.setXr v).a0 = s.a0 := rfl
@[simp] theorem State.setXr_a1 (v : Word) : (s.setXr v).a1 = s.a1 := rfl
@[simp] theorem State.setXr_a2 (v : Word) : (s.setXr v).a2 = s.a2 := rfl
@[simp] theorem State.setXr_a3 (v : Word) : (s.setXr v).a3 = s.a3 := rfl
@[simp] theorem State.setXr_r0 (v : Word) : (s.setXr v).r0 = s.r0 := rfl
@[simp] theorem State.setXr_r1 (v : Word) : (s.setXr v).r1 = s.r1 := rfl
@[simp] theorem State.setXr_r2 (v : Word) : (s.setXr v).r2 = s.r2 := rfl
@[simp] theorem State.setXr_r3 (v : Word) : (s.setXr v).r3 = s.r3 := rfl
@[simp] theorem State.setXr_xr (v : Word) : (s.setXr v).xr = v := rfl
@[simp] theorem State.setXr_status (v : Word) : (s.setXr v).status = s.status := rfl
@[simp] theorem State.setXr_phase (v : Word) : (s.setXr v).phase = s.phase := rfl
@[simp] theorem State.setXr_cur (v : Word) : (s.setXr v).cur = s.cur := rfl
@[simp] theorem State.setXr_scratch (v : Word) : (s.setXr v).scratch = s.scratch := rfl
@[simp] theorem State.setXr_held (v : Word) : (s.setXr v).held = s.held := rfl
@[simp] theorem State.setXr_rsp (v : Word) : (s.setXr v).rsp = s.rsp := rfl
@[simp] theorem State.setXr_agenda (v : Word) : (s.setXr v).agenda = s.agenda := rfl
@[simp] theorem State.setXr_operand (v : Word) (o : OperandReg) : (s.setXr v).operand o = s.operand o := rfl
@[simp] theorem State.setXr_rVec (v : Word) : (s.setXr v).rVec = s.rVec := rfl
@[simp] theorem State.setXr_aVec (v : Word) : (s.setXr v).aVec = s.aVec := rfl
@[simp] theorem State.setXr_qEff (v : Word) (qdef : Bool) : (s.setXr v).qEff qdef = s.qEff qdef := rfl

@[simp] theorem State.setAgenda_nrows (as : List Turn) : (s.setAgenda as).nrows = s.nrows := rfl
@[simp] theorem State.setAgenda_q (as : List Turn) : (s.setAgenda as).q = s.q := rfl
@[simp] theorem State.setAgenda_stepIdx (as : List Turn) : (s.setAgenda as).stepIdx = s.stepIdx := rfl
@[simp] theorem State.setAgenda_seed (as : List Turn) : (s.setAgenda as).seed = s.seed := rfl
@[simp] theorem State.setAgenda_x (as : List Turn) : (s.setAgenda as).x = s.x := rfl
@[simp] theorem State.setAgenda_row (as : List Turn) : (s.setAgenda as).row = s.row := rfl
@[simp] theorem State.setAgenda_a0 (as : List Turn) : (s.setAgenda as).a0 = s.a0 := rfl
@[simp] theorem State.setAgenda_a1 (as : List Turn) : (s.setAgenda as).a1 = s.a1 := rfl
@[simp] theorem State.setAgenda_a2 (as : List Turn) : (s.setAgenda as).a2 = s.a2 := rfl
@[simp] theorem State.setAgenda_a3 (as : List Turn) : (s.setAgenda as).a3 = s.a3 := rfl
@[simp] theorem State.setAgenda_r0 (as : List Turn) : (s.setAgenda as).r0 = s.r0 := rfl
@[simp] theorem State.setAgenda_r1 (as : List Turn) : (s.setAgenda as).r1 = s.r1 := rfl
@[simp] theorem State.setAgenda_r2 (as : List Turn) : (s.setAgenda as).r2 = s.r2 := rfl
@[simp] theorem State.setAgenda_r3 (as : List Turn) : (s.setAgenda as).r3 = s.r3 := rfl
@[simp] theorem State.setAgenda_xr (as : List Turn) : (s.setAgenda as).xr = s.xr := rfl
@[simp] theorem State.setAgenda_status (as : List Turn) : (s.setAgenda as).status = s.status := rfl
@[simp] theorem State.setAgenda_phase (as : List Turn) : (s.setAgenda as).phase = s.phase := rfl
@[simp] theorem State.setAgenda_cur (as : List Turn) : (s.setAgenda as).cur = s.cur := rfl
@[simp] theorem State.setAgenda_scratch (as : List Turn) : (s.setAgenda as).scratch = s.scratch := rfl
@[simp] theorem State.setAgenda_held (as : List Turn) : (s.setAgenda as).held = s.held := rfl
@[simp] theorem State.setAgenda_rsp (as : List Turn) : (s.setAgenda as).rsp = s.rsp := rfl
@[simp] theorem State.setAgenda_agenda (as : List Turn) : (s.setAgenda as).agenda = as := rfl
@[simp] theorem State.setAgenda_operand (as : List Turn) (o : OperandReg) : (s.setAgenda as).operand o = s.operand o := rfl
@[simp] theorem State.setAgenda_result (as : List Turn) (r : ResultReg) : (s.setAgenda as).result r = s.result r := rfl
@[simp] theorem State.setAgenda_rVec (as : List Turn) : (s.setAgenda as).rVec = s.rVec := rfl
@[simp] theorem State.setAgenda_aVec (as : List Turn) : (s.setAgenda as).aVec = s.aVec := rfl
@[simp] theorem State.setAgenda_qEff (as : List Turn) (qdef : Bool) : (s.setAgenda as).qEff qdef = s.qEff qdef := rfl

@[simp] theorem State.release_nrows : (s.release).nrows = s.nrows := rfl
@[simp] theorem State.release_q : (s.release).q = s.q := rfl
@[simp] theorem State.release_stepIdx : (s.release).stepIdx = s.stepIdx := rfl
@[simp] theorem State.release_seed : (s.release).seed = s.seed := rfl
@[simp] theorem State.release_x : (s.release).x = s.x := rfl
@[simp] theorem State.release_row : (s.release).row = s.row := rfl
@[simp] theorem State.release_a0 : (s.release).a0 = s.a0 := rfl
@[simp] theorem State.release_a1 : (s.release).a1 = s.a1 := rfl
@[simp] theorem State.release_a2 : (s.release).a2 = s.a2 := rfl
@[simp] theorem State.release_a3 : (s.release).a3 = s.a3 := rfl
@[simp] theorem State.release_r0 : (s.release).r0 = s.r0 := rfl
@[simp] theorem State.release_r1 : (s.release).r1 = s.r1 := rfl
@[simp] theorem State.release_r2 : (s.release).r2 = s.r2 := rfl
@[simp] theorem State.release_r3 : (s.release).r3 = s.r3 := rfl
@[simp] theorem State.release_xr : (s.release).xr = s.xr := rfl
@[simp] theorem State.release_status : (s.release).status = s.status := rfl
@[simp] theorem State.release_phase : (s.release).phase = s.phase := rfl
@[simp] theorem State.release_cur : (s.release).cur = s.cur := rfl
@[simp] theorem State.release_scratch : (s.release).scratch = s.scratch := rfl
@[simp] theorem State.release_held : (s.release).held = none := rfl
@[simp] theorem State.release_rsp : (s.release).rsp = s.rsp := rfl
@[simp] theorem State.release_agenda : (s.release).agenda = s.agenda := rfl
@[simp] theorem State.release_operand (o : OperandReg) : (s.release).operand o = s.operand o := rfl
@[simp] theorem State.release_result (r : ResultReg) : (s.release).result r = s.result r := rfl
@[simp] theorem State.release_rVec : (s.release).rVec = s.rVec := rfl
@[simp] theorem State.release_aVec : (s.release).aVec = s.aVec := rfl
@[simp] theorem State.release_qEff (qdef : Bool) : (s.release).qEff qdef = s.qEff qdef := rfl

@[simp] theorem State.setScratch_nrows (t : Scratch) : (s.setScratch t).nrows = s.nrows := rfl
@[simp] theorem State.setScratch_q (t : Scratch) : (s.setScratch t).q = s.q := rfl
@[simp] theorem State.setScratch_stepIdx (t : Scratch) : (s.setScratch t).stepIdx = s.stepIdx := rfl
@[simp] theorem State.setScratch_seed (t : Scratch) : (s.setScratch t).seed = s.seed := rfl
@[simp] theorem State.setScratch_x (t : Scratch) : (s.setScratch t).x = s.x := rfl
@[simp] theorem State.setScratch_row (t : Scratch) : (s.setScratch t).row = s.row := rfl
@[simp] theorem State.setScratch_a0 (t : Scratch) : (s.setScratch t).a0 = s.a0 := rfl
@[simp] theorem State.setScratch_a1 (t : Scratch) : (s.setScratch t).a1 = s.a1 := rfl
@[simp] theorem State.setScratch_a2 (t : Scratch) : (s.setScratch t).a2 = s.a2 := rfl
@[simp] theorem State.setScratch_a3 (t : Scratch) : (s.setScratch t).a3 = s.a3 := rfl
@[simp] theorem State.setScratch_r0 (t : Scratch) : (s.setScratch t).r0 = s.r0 := rfl
@[simp] theorem State.setScratch_r1 (t : Scratch) : (s.setScratch t).r1 = s.r1 := rfl
@[simp] theorem State.setScratch_r2 (t : Scratch) : (s.setScratch t).r2 = s.r2 := rfl
@[simp] theorem State.setScratch_r3 (t : Scratch) : (s.setScratch t).r3 = s.r3 := rfl
@[simp] theorem State.setScratch_xr (t : Scratch) : (s.setScratch t).xr = s.xr := rfl
@[simp] theorem State.setScratch_status (t : Scratch) : (s.setScratch t).status = s.status := rfl
@[simp] theorem State.setScratch_phase (t : Scratch) : (s.setScratch t).phase = s.phase := rfl
@[simp] theorem State.setScratch_cur (t : Scratch) : (s.setScratch t).cur = s.cur := rfl
@[simp] theorem State.setScratch_scratch (t : Scratch) : (s.setScratch t).scratch = t := rfl
@[simp] theorem State.setScratch_held (t : Scratch) : (s.setScratch t).held = s.held := rfl
@[simp] theorem State.setScratch_rsp (t : Scratch) : (s.setScratch t).rsp = s.rsp := rfl
@[simp] theorem State.setScratch_agenda (t : Scratch) : (s.setScratch t).agenda = s.agenda := rfl
@[simp] theorem State.setScratch_operand (t : Scratch) (o : OperandReg) : (s.setScratch t).operand o = s.operand o := rfl
@[simp] theorem State.setScratch_result (t : Scratch) (r : ResultReg) : (s.setScratch t).result r = s.result r := rfl
@[simp] theorem State.setScratch_rVec (t : Scratch) : (s.setScratch t).rVec = s.rVec := rfl
@[simp] theorem State.setScratch_aVec (t : Scratch) : (s.setScratch t).aVec = s.aVec := rfl
@[simp] theorem State.setScratch_qEff (t : Scratch) (qdef : Bool) : (s.setScratch t).qEff qdef = s.qEff qdef := rfl

@[simp] theorem State.setOperand_r0 (o : OperandReg) (v : Word) : (s.setOperand o v).r0 = s.r0 := by
  cases o <;> rfl
@[simp] theorem State.setOperand_r1 (o : OperandReg) (v : Word) : (s.setOperand o v).r1 = s.r1 := by
  cases o <;> rfl
@[simp] theorem State.setOperand_r2 (o : OperandReg) (v : Word) : (s.setOperand o v).r2 = s.r2 := by
  cases o <;> rfl
@[simp] theorem State.setOperand_r3 (o : OperandReg) (v : Word) : (s.setOperand o v).r3 = s.r3 := by
  cases o <;> rfl
@[simp] theorem State.setOperand_xr (o : OperandReg) (v : Word) : (s.setOperand o v).xr = s.xr := by
  cases o <;> rfl
@[simp] theorem State.setOperand_status (o : OperandReg) (v : Word) : (s.setOperand o v).status = s.status := by
  cases o <;> rfl
@[simp] theorem State.setOperand_phase (o : OperandReg) (v : Word) : (s.setOperand o v).phase = s.phase := by
  cases o <;> rfl
@[simp] theorem State.setOperand_cur (o : OperandReg) (v : Word) : (s.setOperand o v).cur = s.cur := by
  cases o <;> rfl
@[simp] theorem State.setOperand_scratch (o : OperandReg) (v : Word) : (s.setOperand o v).scratch = s.scratch := by
  cases o <;> rfl
@[simp] theorem State.setOperand_held (o : OperandReg) (v : Word) : (s.setOperand o v).held = s.held := by
  cases o <;> rfl
@[simp] theorem State.setOperand_rsp (o : OperandReg) (v : Word) : (s.setOperand o v).rsp = s.rsp := by
  cases o <;> rfl
@[simp] theorem State.setOperand_agenda (o : OperandReg) (v : Word) : (s.setOperand o v).agenda = s.agenda := by
  cases o <;> rfl
@[simp] theorem State.setOperand_result (o : OperandReg) (v : Word) (r : ResultReg) :
    (s.setOperand o v).result r = s.result r := by
  cases o <;> rfl
@[simp] theorem State.setOperand_rVec (o : OperandReg) (v : Word) : (s.setOperand o v).rVec = s.rVec := by
  cases o <;> rfl

/-- A register holds what was written to it. -/
@[simp] theorem State.setOperand_operand_same (o : OperandReg) (v : Word) : (s.setOperand o v).operand o = v := by
  cases o <;> rfl

/-- A write leaves every other operand register alone. -/
theorem State.setOperand_operand_ne (o o' : OperandReg) (v : Word) (h : o' ≠ o) :
    (s.setOperand o v).operand o' = s.operand o' := by
  cases o <;> cases o' <;> first | exact absurd rfl h | rfl

@[simp] theorem State.resetEvent_nrows : s.resetEvent.nrows = 0 := rfl
@[simp] theorem State.resetEvent_q : s.resetEvent.q = 65521 := rfl
@[simp] theorem State.resetEvent_stepIdx : s.resetEvent.stepIdx = 0 := rfl
@[simp] theorem State.resetEvent_seed : s.resetEvent.seed = 0 := rfl
@[simp] theorem State.resetEvent_x : s.resetEvent.x = 0 := rfl
@[simp] theorem State.resetEvent_row : s.resetEvent.row = 0 := rfl
@[simp] theorem State.resetEvent_a0 : s.resetEvent.a0 = 0 := rfl
@[simp] theorem State.resetEvent_a1 : s.resetEvent.a1 = 0 := rfl
@[simp] theorem State.resetEvent_a2 : s.resetEvent.a2 = 0 := rfl
@[simp] theorem State.resetEvent_a3 : s.resetEvent.a3 = 0 := rfl
@[simp] theorem State.resetEvent_r0 : s.resetEvent.r0 = 0 := rfl
@[simp] theorem State.resetEvent_r1 : s.resetEvent.r1 = 0 := rfl
@[simp] theorem State.resetEvent_r2 : s.resetEvent.r2 = 0 := rfl
@[simp] theorem State.resetEvent_r3 : s.resetEvent.r3 = 0 := rfl
@[simp] theorem State.resetEvent_xr : s.resetEvent.xr = 0 := rfl
@[simp] theorem State.resetEvent_status : s.resetEvent.status = 0 := rfl
@[simp] theorem State.resetEvent_phase : s.resetEvent.phase = .idle := rfl
@[simp] theorem State.resetEvent_cur : s.resetEvent.cur = ⟨.acc, false⟩ := rfl
@[simp] theorem State.resetEvent_scratch : s.resetEvent.scratch = .reset := rfl
@[simp] theorem State.resetEvent_held : s.resetEvent.held = none := rfl
@[simp] theorem State.resetEvent_rsp : s.resetEvent.rsp = none := rfl
@[simp] theorem State.resetEvent_agenda : s.resetEvent.agenda = s.agenda := rfl

end Sys2Proof.Machine
end

