-- ==== Sys2Proof/Laws/Engine.lean ====
section
/-! SUPPORT. What the Engine's step can do (R45), said once. -/

namespace Sys2Proof.Machine

@[simp] theorem completeAcc_rVec (hash : List Byte → Word) (n : Dim) (q : Modulus) (s : State) :
    (completeAcc hash n q s).rVec = pack (accumulateVec hash s.x s.stepIdx n s.seed q) := rfl

@[simp] theorem completeUpd_rVec (hash : List Byte → Word) (n : Dim) (q : Modulus) (s : State) :
    (completeUpd hash n q s).rVec = pack (accumulateVec hash s.combined s.stepIdx n s.seed q) := rfl

@[simp] theorem completeDrow_rVec (hash : List Byte → Word) (n : Dim) (q : Modulus) (s : State) :
    (completeDrow hash n q s).rVec = pack (deriveRow hash s.seed s.stepIdx s.row n q) := rfl

@[simp] theorem completeXorall_xr (s : State) : (completeXorall s).xr = combine s.aVec := rfl

/-- On valid parameters the continuation runs. -/
theorem withParams_of_valid {s : State} {n : Dim} {q : Modulus} (hn : dim? s.nrows = some n)
    (hq : modulus? (s.qEff s.cur.qdef) = some q) (k : Dim → Modulus → State) :
    withParams s k = .next (k n q) := by
  simp [withParams, hn, hq]

/-- A next state comes from valid parameters. -/
theorem withParams_next {s t : State} {k : Dim → Modulus → State} (h : withParams s k = .next t) :
    ∃ n q, dim? s.nrows = some n ∧ modulus? (s.qEff s.cur.qdef) = some q ∧ t = k n q := by
  unfold withParams at h
  split at h
  · rename_i n q hn hq
    injection h with h
    exact ⟨n, q, hn, hq, h.symm⟩
  · cases h

/-- The elements a packing command's completion packs (R45). -/
def Elements (hash : List Byte → Word) (s : State) (n : Dim) (q : Modulus) (op : Op) : List Nat :=
  match op with
  | .acc => accumulateVec hash s.x s.stepIdx n s.seed q
  | .upd => accumulateVec hash s.combined s.stepIdx n s.seed q
  | .drow => deriveRow hash s.seed s.stepIdx s.row n q
  | .xorall => []

/-- All that a completion can do: XORALL writes `XR`; the others pack their elements into `R0..R3`, on valid
parameters, and leave some scratch. -/
theorem complete_cases {hash : List Byte → Word} {s t : State} (h : complete hash s = .next t) :
    (s.cur.op = .xorall ∧ t = (s.setXr (combine s.aVec)).finish) ∨
    (s.cur.op ≠ .xorall ∧ ∃ n q scratch, dim? s.nrows = some n ∧ modulus? (s.qEff s.cur.qdef) = some q ∧
      t = ((s.setScratch scratch).setResult (pack (Elements hash s n q s.cur.op))).finish) := by
  unfold complete at h
  split at h
  case h_4 hop =>
    injection h with h
    exact .inl ⟨hop, h.symm⟩
  all_goals
    rename_i hop
    obtain ⟨n, q, hn, hq, rfl⟩ := withParams_next h
    exact .inr ⟨by simp [hop], n, q, _, hn, hq, by rw [hop]; rfl⟩

/-- A completion on valid parameters, or of XORALL, answers a next state. -/
theorem complete_of_valid (hash : List Byte → Word) {s : State}
    (h : s.cur.op = .xorall ∨ ((dim? s.nrows).isSome ∧ (modulus? (s.qEff s.cur.qdef)).isSome)) :
    ∃ t, complete hash s = .next t := by
  unfold complete
  rcases h with h | ⟨hn, hq⟩
  · rw [h]; exact ⟨_, rfl⟩
  · obtain ⟨n, hn⟩ := Option.isSome_iff_exists.mp hn
    obtain ⟨q, hq⟩ := Option.isSome_iff_exists.mp hq
    cases s.cur.op <;> first | exact ⟨_, withParams_of_valid hn hq _⟩ | exact ⟨_, rfl⟩

/-- The Engine's step in each phase. -/
theorem engineStep_of_busy {s : State} (h : s.phase = .busy) : engineStep s = complete Config.hash s := by
  simp [engineStep, h]

theorem engineStep_of_idle {s : State} (h : s.phase = .idle) : engineStep s = .next s := by
  simp [engineStep, h]

end Sys2Proof.Machine
end

