-- ==== Sys2Proof/Laws/Ops.lean ====
section
/-! SUPPORT. What the shared operations over the register space can do, each said once: the address map, accepting and
holding (R64), the acceptance of a command (R44), and every instruction in these terms. -/

namespace Sys2Proof.Machine

/-! ### The address map (R62) -/

@[simp] theorem regAt_operand_addr (o : OperandReg) : regAt o.addr = .operand o := by cases o <;> rfl
@[simp] theorem regAt_result_addr (r : ResultReg) : regAt r.addr = .result r := by cases r <;> rfl
@[simp] theorem regAt_cmdAddr : regAt cmdAddr = .cmd := rfl
@[simp] theorem regAt_statusAddr : regAt statusAddr = .status := rfl

theorem OperandReg.addr_ne_cmd (o : OperandReg) : o.addr ≠ cmdAddr := by cases o <;> decide
theorem OperandReg.addr_ne_status (o : OperandReg) : o.addr ≠ statusAddr := by cases o <;> decide

/-- Only its own address names an operand register. -/
theorem regAt_eq_operand {addr : RegAddr} {o : OperandReg} : regAt addr = .operand o ↔ addr = o.addr := by
  revert addr; cases o <;> decide

/-- Only its own address names a result register. -/
theorem regAt_eq_result {addr : RegAddr} {r : ResultReg} : regAt addr = .result r ↔ addr = r.addr := by
  revert addr; cases r <;> decide

/-- A write outside `CMD` stores to the operand register at its address, or does nothing (R67, R69). -/
theorem State.regWrite_cases (s : State) (addr : RegAddr) (v : Word) :
    (∃ o : OperandReg, addr = o.addr ∧ s.regWrite addr v = s.setOperand o v) ∨
    ((∀ o : OperandReg, addr ≠ o.addr) ∧ s.regWrite addr v = s) := by
  unfold State.regWrite
  cases h : regAt addr with
  | operand o => exact .inl ⟨o, regAt_eq_operand.mp h, rfl⟩
  | _ => exact .inr ⟨fun o e => (by subst e; simp at h), rfl⟩

@[simp] theorem State.regWrite_operand_addr (s : State) (o : OperandReg) (v : Word) :
    s.regWrite o.addr v = s.setOperand o v := by simp [State.regWrite]

/-! ### Accepting and holding (R64) -/

theorem State.accepts_of_idle {s : State} (h : s.phase = .idle) (t : Request) : s.accepts t = true := by
  simp [State.accepts, h]

theorem State.accepts_of_busy {s : State} (h : s.phase = .busy) (t : Request) :
    s.accepts t = true ↔ t.write = false ∧ t.addr = statusAddr := by
  simp [State.accepts, h]

/-- In IDLE a transaction has its effect, nothing being returned unless the effect says so. -/
theorem transact_of_idle {s : State} (h : s.phase = .idle) (t : Request) (f : State → State) :
    transact t f s = .next (f (s.respond none)) := by
  simp [transact, State.accepts_of_idle h]

/-- In BUSY every transaction but a read of `STATUS` is held. -/
theorem transact_of_busy {s : State} (h : s.phase = .busy) {t : Request}
    (ht : t.write = true ∨ t.addr ≠ statusAddr) (f : State → State) : transact t f s = .next (s.hold t) := by
  have : s.accepts t = false := by
    rw [← Bool.not_eq_true, State.accepts_of_busy h]
    rintro ⟨h1, h2⟩
    rcases ht with ht | ht
    · rw [h1] at ht; cases ht
    · exact ht h2
  simp [transact, this]

/-- All that a transaction can do: it is accepted and has its effect, or it is held in a BUSY block. -/
theorem transact_cases (t : Request) (f : State → State) (s : State) :
    (s.accepts t = true ∧ transact t f s = .next (f (s.respond none))) ∨
    (s.phase = .busy ∧ (t.write = true ∨ t.addr ≠ statusAddr) ∧ transact t f s = .next (s.hold t)) := by
  cases hp : s.phase with
  | idle => exact .inl ⟨State.accepts_of_idle hp t, transact_of_idle hp t f⟩
  | busy =>
    by_cases ht : t.write = true ∨ t.addr ≠ statusAddr
    · exact .inr ⟨rfl, ht, transact_of_busy hp ht f⟩
    · simp only [not_or, Bool.not_eq_true, ne_eq, Decidable.not_not] at ht
      have := (State.accepts_of_busy hp t).mpr ht
      exact .inl ⟨this, by simp [transact, this]⟩

/-! ### The acceptance of a command (R44) -/

/-- All that accepting a well-formed command can do: start it, on valid parameters or for XORALL, or raise its
parameter errors. -/
theorem accept_cases (c : Command) (s : State) :
    (accept c s = s.start c ∧
      (c.op = .xorall ∨ ((dim? s.nrows).isSome ∧ (modulus? (s.qEff c.qdef)).isSome))) ∨
    (c.op ≠ .xorall ∧ (dimErr s.nrows || modErr (s.qEff c.qdef)) = true ∧
      accept c s = s.raise (statusError (dimErr s.nrows) (modErr (s.qEff c.qdef)))) := by
  obtain ⟨op, qdef⟩ := c
  cases op
  case xorall => exact .inl ⟨rfl, .inl rfl⟩
  all_goals
    cases h : (dimErr s.nrows || modErr (s.qEff qdef)) with
    | true => exact .inr ⟨by simp, rfl, by simp [accept, h]⟩
    | false =>
      refine .inl ⟨by simp [accept, h], .inr ?_⟩
      rw [Bool.or_eq_false_iff, dimErr_eq, modErr_eq] at h
      simpa [Option.isNone_eq_false_iff] using h

/-- A command other than XORALL on valid parameters is started. -/
theorem accept_of_valid {c : Command} {s : State} {n : Dim} {q : Modulus} (hn : dim? s.nrows = some n)
    (hq : modulus? (s.qEff c.qdef) = some q) : accept c s = s.start c := by
  obtain ⟨op, qdef⟩ := c
  cases op <;> simp_all [accept, dimErr_eq, modErr_eq]

/-- A command other than XORALL on an invalid parameter raises its errors. -/
theorem accept_of_invalid {c : Command} {s : State} (hop : c.op ≠ .xorall)
    (h : (dimErr s.nrows || modErr (s.qEff c.qdef)) = true) :
    accept c s = s.raise (statusError (dimErr s.nrows) (modErr (s.qEff c.qdef))) := by
  obtain ⟨op, qdef⟩ := c
  cases op <;> first | exact absurd rfl hop | exact if_pos h

/-! ### Every instruction in these terms -/

/-- A well-formed command is the `CMD` write of its word, which accepts it. -/
theorem exec_toInstr {c : Command} (h : c.wellFormed = true) (s : State) :
    exec c.toInstr s = transact (cmdWrite (encodeCommand c)) (accept c) s := by
  obtain ⟨op, qdef⟩ := c
  cases op
  case xorall => cases qdef <;> first | rfl | cases h
  all_goals rfl

/-- `XORALL` with `QDEF` = 1 is an illegal word (R96). -/
theorem exec_xorall_true (s : State) :
    exec (.xorall true) s =
      transact (cmdWrite (encodeCommand ⟨.xorall, true⟩)) (fun s => s.raise statusIllegal) s := rfl

/-- A write to `CMD` of a command's word is that command. -/
theorem exec_wr_cmd {w : Word} {c : Command} (h : decodeCommand w = .ok c) (s : State) :
    exec (.wr cmdAddr w) s = exec c.toInstr s := by
  obtain ⟨op, qdef⟩ := c
  simp only [exec, execWr, if_pos, writeCmd, h]
  cases op <;> rfl

/-- A write to `CMD` of any other word is an illegal command. -/
theorem exec_wr_illegal {w : Word} {e : Reject} (h : decodeCommand w = .error e) (s : State) :
    exec (.wr cmdAddr w) s = transact (cmdWrite w) (fun s => s.raise statusIllegal) s := by
  simp only [exec, execWr, if_pos, writeCmd, h]

/-- A write elsewhere is a register write (R67). -/
theorem exec_wr_reg {addr : RegAddr} (h : addr ≠ cmdAddr) (v : Word) (s : State) :
    exec (.wr addr v) s = transact ⟨true, addr, v⟩ (fun s => s.regWrite addr v) s := by
  simp only [exec, execWr, if_neg h]

theorem exec_rd (addr : RegAddr) (s : State) :
    exec (.rd addr) s = transact ⟨false, addr, 0⟩ (fun s => s.respond (some (s.regRead addr))) s := rfl

/-- The effects an instruction can have in one step. -/
inductive Effect (i : Instr) (s : State) : State → Prop where
  /-- Held by a BUSY block (R64). -/
  | held (t : Request) (hp : s.phase = .busy) (ht : t.write = true ∨ t.addr ≠ statusAddr) : Effect i s (s.hold t)
  /-- A read (R66). -/
  | read (v : Word) : Effect i s (s.respond (some v))
  /-- A valid command starts (R44). -/
  | start (c : Command) (hp : s.phase = .idle) (hc : c.wellFormed = true)
      (hv : c.op = .xorall ∨ ((dim? s.nrows).isSome ∧ (modulus? (s.qEff c.qdef)).isSome)) :
      Effect i s ((s.respond none).start c)
  /-- An illegal word (R96). -/
  | illegal (hp : s.phase = .idle) : Effect i s ((s.respond none).raise statusIllegal)
  /-- A parameter error (R212, R213). -/
  | error (d m : Bool) (hp : s.phase = .idle) (h : (d || m) = true) : Effect i s ((s.respond none).raise (statusError d m))
  /-- An operand is written (R67). -/
  | write (o : OperandReg) (v : Word) (hp : s.phase = .idle) (hi : i = .wr o.addr v) :
      Effect i s ((s.respond none).setOperand o v)
  /-- A write is ignored (R69). -/
  | ignored (hp : s.phase = .idle) : Effect i s (s.respond none)

/-- The effect of a command's `CMD` write, by whichever instruction it comes. -/
theorem command_effect {c : Command} (hc : c.wellFormed = true) (i : Instr) (s : State) :
    ∃ t, exec c.toInstr s = .next t ∧ Effect i s t := by
  rw [exec_toInstr hc]
  cases hp : s.phase with
  | busy => exact ⟨_, transact_of_busy hp (.inl rfl) _, .held _ hp (.inl rfl)⟩
  | idle =>
    refine ⟨_, transact_of_idle hp _ _, ?_⟩
    rcases accept_cases c (s.respond none) with ⟨ha, hv⟩ | ⟨-, he, ha⟩
    · rw [ha]; exact .start c hp hc hv
    · rw [ha]; exact .error _ _ hp he

/-- The effect of an illegal word. -/
theorem illegal_effect (w : Word) (i : Instr) (s : State) :
    ∃ t, transact (cmdWrite w) (fun s => s.raise statusIllegal) s = .next t ∧ Effect i s t := by
  cases hp : s.phase with
  | busy => exact ⟨_, transact_of_busy hp (.inl rfl) _, .held _ hp (.inl rfl)⟩
  | idle => exact ⟨_, transact_of_idle hp _ _, .illegal hp⟩

/-- All that an instruction can do in one step: no instruction faults or is refused, and its next state is one of the
effects. -/
theorem exec_effect (i : Instr) (s : State) : ∃ t, exec i s = .next t ∧ Effect i s t := by
  cases i with
  | acc qdef => exact command_effect (c := ⟨.acc, qdef⟩) rfl _ s
  | upd qdef => exact command_effect (c := ⟨.upd, qdef⟩) rfl _ s
  | drow qdef => exact command_effect (c := ⟨.drow, qdef⟩) rfl _ s
  | xorall qdef =>
    cases qdef with
    | false => exact command_effect (c := ⟨.xorall, false⟩) rfl _ s
    | true => rw [exec_xorall_true]; exact illegal_effect _ _ s
  | rd addr =>
    rw [exec_rd]
    rcases transact_cases ⟨false, addr, 0⟩ (fun s => s.respond (some (s.regRead addr))) s with ⟨-, h⟩ | ⟨hp, ht, h⟩
    · exact ⟨_, h, .read _⟩
    · exact ⟨_, h, .held _ hp ht⟩
  | wr addr v =>
    by_cases ha : addr = cmdAddr
    · subst ha
      cases hd : decodeCommand v with
      | ok c =>
        rw [exec_wr_cmd hd]
        exact command_effect (encodeCommand_of_decodeCommand hd).1 _ s
      | error e =>
        rw [exec_wr_illegal hd]
        exact illegal_effect _ _ s
    · rw [exec_wr_reg ha]
      cases hp : s.phase with
      | busy => exact ⟨_, transact_of_busy hp (.inl rfl) _, .held _ hp (.inl rfl)⟩
      | idle =>
        refine ⟨_, transact_of_idle hp _ _, ?_⟩
        rcases (s.respond none).regWrite_cases addr v with ⟨o, rfl, h⟩ | ⟨-, h⟩
        · simp only [h]; exact .write o v hp rfl
        · simp only [h]; exact .ignored hp

/-- `exec_effect`, read from an answer. -/
theorem effect_of_exec {i : Instr} {s t : State} (h : exec i s = .next t) : Effect i s t := by
  obtain ⟨t', h', e⟩ := exec_effect i s
  rw [h] at h'
  injection h' with h'
  exact h' ▸ e

end Sys2Proof.Machine
end

