-- ==== Sys2Proof/Laws/Pack.lean ====
section
/-! SUPPORT. Lanes of a word, and what one insertion of PCK does to the lanes of the container. -/

namespace Sys2Proof.Machine

/-- Bit `b` of lane `k` is bit `16k + b` of the word (R123). -/
theorem lane_getLsbD (d : Word) (k b : Nat) (h : b < 16) : (lane d k).getLsbD b = d.getLsbD (16 * k + b) := by
  simp only [lane, BitVec.getLsbD_extractLsb', h, decide_true, Bool.true_and]

/-- A lane as a number: division and remainder. -/
theorem lane_toNat (d : Word) (k : Nat) : (lane d k).toNat = d.toNat / 2 ^ (16 * k) % 65536 := by
  simp [lane, BitVec.extractLsb'_toNat, Nat.shiftRight_eq_div_pow]

theorem lane_or (a b : Word) (k : Nat) : lane (a ||| b) k = lane a k ||| lane b k := by
  apply BitVec.eq_of_getLsbD_eq
  intro i hi
  rw [BitVec.getLsbD_or, lane_getLsbD _ _ _ hi, lane_getLsbD _ _ _ hi, lane_getLsbD _ _ _ hi, BitVec.getLsbD_or]

theorem lane_xor (a b : Word) (k : Nat) : lane (a ^^^ b) k = lane a k ^^^ lane b k := by
  apply BitVec.eq_of_getLsbD_eq
  intro i hi
  rw [BitVec.getLsbD_xor, lane_getLsbD _ _ _ hi, lane_getLsbD _ _ _ hi, lane_getLsbD _ _ _ hi, BitVec.getLsbD_xor]

@[simp] theorem lane_zero (k : Nat) : lane 0#256 k = 0#16 := by
  apply BitVec.eq_of_getLsbD_eq
  intro i hi
  rw [lane_getLsbD _ _ _ hi]; simp

/-- Two words with the same 16 lanes are equal. -/
theorem word_ext_lanes {v w : Word} (h : ∀ j, j < 16 → lane v j = lane w j) : v = w := by
  apply BitVec.eq_of_getLsbD_eq
  intro i hi
  have := congrArg (·.getLsbD (i % 16)) (h (i / 16) (by omega))
  simpa only [lane_getLsbD _ _ _ (Nat.mod_lt i (by decide : 0 < 16)), Nat.div_add_mod] using this

/-- The masked and shifted element of R171 fills its own lane and no other. -/
theorem lane_element (y j k : Nat) (hj : j < 16) (hk : k < 16) :
    lane ((BitVec.ofNat 256 y &&& 0xFFFF) <<< (j * 16)) k = if k = j then BitVec.ofNat 16 y else 0 := by
  have mask : ∀ b, (0xFFFF : Word).getLsbD b = decide (b < 16) := by
    intro b
    rw [show (0xFFFF : Word) = BitVec.ofNat 256 (2 ^ 16 - 1) from rfl, BitVec.getLsbD_ofNat, Nat.testBit_two_pow_sub_one]
    by_cases h : b < 16
    · simp [h, show b < 256 by omega]
    · simp [h]
  apply BitVec.eq_of_getLsbD_eq
  intro i hi
  rw [lane_getLsbD _ _ _ hi, BitVec.getLsbD_shiftLeft, BitVec.getLsbD_and, mask]
  split
  · rename_i h
    subst h
    have h1 : ¬ 16 * k + i < k * 16 := by omega
    have h2 : 16 * k + i - k * 16 = i := by omega
    have h3 : 16 * k + i < 256 := by omega
    have h4 : i < 256 := by omega
    simp only [h1, h2, h3, BitVec.getLsbD_ofNat, hi, h4, decide_true, decide_false, Bool.not_false, Bool.true_and,
      Bool.and_true]
  · rename_i h
    by_cases hlt : 16 * k + i < j * 16
    · simp [hlt]
    · have : ¬ 16 * k + i - j * 16 < 16 := by omega
      simp [this]

/-- One insertion fills lane `r mod 16` of word `r div 16` and leaves every other lane alone. -/
theorem lane_insert (w : Container) (r y i j : Nat) (hr : r < 64) (hi : i < 4) (hj : j < 16) :
    lane ((w.insert r y).word i) j =
      if r = 16 * i + j then lane (w.word i) j ||| BitVec.ofNat 16 y else lane (w.word i) j := by
  have hr4 : r / 16 < 4 := by omega
  have word_or : ∀ m v, m < 4 → (w.orWord m v).word i = if i = m then w.word i ||| v else w.word i := by
    intro m v hm
    interval_cases m <;> interval_cases i <;> rfl
  unfold Container.insert
  rw [word_or _ _ hr4]
  by_cases h : i = r / 16
  · have hm : r % 16 < 16 := Nat.mod_lt _ (by decide)
    rw [if_pos h, lane_or, lane_element _ _ _ hm hj]
    by_cases h' : j = r % 16
    · rw [if_pos h', if_pos (by omega)]
    · rw [if_neg h', if_neg (by omega)]; simp
  · rw [if_neg h, if_neg (by omega)]

end Sys2Proof.Machine
end

