-- ==== Sys2Proof/Laws/PerInstr.lean ====
section
/-! SUPPORT. Statements about every instruction, one lemma per constructor. -/

/-- A well-formed instruction's words decode to it. -/
def Sys2Proof.Laws.DecodeEncode.Statement (i : Sys2Proof.Instr) : Prop :=
  i.wellFormed = true → Sys2Proof.decode (Sys2Proof.encode i) = .ok i

namespace Sys2Proof.Laws.DecodeEncode

theorem acc (qdef : Bool) : Statement (.acc qdef) := fun _ =>
  congrArg (Except.map Command.toInstr) (decodeCommand_encodeCommand ⟨.acc, qdef⟩ rfl)

theorem upd (qdef : Bool) : Statement (.upd qdef) := fun _ =>
  congrArg (Except.map Command.toInstr) (decodeCommand_encodeCommand ⟨.upd, qdef⟩ rfl)

theorem xorall (qdef : Bool) : Statement (.xorall qdef) := fun h =>
  congrArg (Except.map Command.toInstr) (decodeCommand_encodeCommand ⟨.xorall, qdef⟩ h)

theorem drow (qdef : Bool) : Statement (.drow qdef) := fun _ =>
  congrArg (Except.map Command.toInstr) (decodeCommand_encodeCommand ⟨.drow, qdef⟩ rfl)

theorem rd (addr : RegAddr) : Statement (.rd addr) := fun _ => by
  simp only [decode, encode, Request.ofBits_toBits]
  rfl

theorem wr (addr : RegAddr) (data : Word) : Statement (.wr addr data) := fun _ => by
  simp only [decode, encode, Request.ofBits_toBits]
  rfl

end Sys2Proof.Laws.DecodeEncode
end

