-- ==== Sys2Proof/Laws/Step.lean ====
section
/-! SUPPORT. What one step can do, said once. -/

namespace Sys2Proof.Machine

@[simp] theorem core_run_zero (s : State) : core.run 0 s = .next s := rfl

/-- A run of any machine goes on from the next state of a step. -/
theorem run_succ_of_step (M : Host.Core) {s t : M.State} (h : M.step s = .next t) (k : Nat) :
    M.run (k + 1) s = M.run k t := by
  simp only [Host.Core.run, h]

/-- A run goes on from the next state of a step. -/
theorem core_run_succ {s t : State} (h : step s = .next t) (k : Nat) : core.run (k + 1) s = core.run k t :=
  run_succ_of_step core h k

/-- The moves a step can be: a Reset, a transaction performed or held, a completion, or nothing. Each is told with the
state it starts from. -/
inductive Move (s : State) : Result → Prop where
  /-- Reset (R240). -/
  | reset (rest : List Turn) (ha : s.agenda = .reset :: rest) :
      Move s (.next (s.setAgenda rest).resetEvent)
  /-- The outstanding transaction, in IDLE (R64). -/
  | perform (t : Request) (hp : s.phase = .idle) (hh : s.held = some t) :
      Move s (exec t.toInstr s.release)
  /-- The Host's next offer. -/
  | offer (t : Request) (rest : List Turn) (hh : s.held = none) (ha : s.agenda = .host t :: rest) :
      Move s (exec t.toInstr (s.setAgenda rest))
  /-- A completion (R45), with an Engine turn used up or not. -/
  | complete (rest : List Turn) (hp : s.phase = .busy) (ha : s.agenda = rest ∨ s.agenda = .engine :: rest) :
      Move s (Machine.complete Config.hash (s.setAgenda rest))
  /-- An IDLE block waits, or lets an Engine turn pass. -/
  | wait (rest : List Turn) (hp : s.phase = .idle) (ha : s.agenda = rest ∨ s.agenda = .engine :: rest) :
      Move s (.next (s.setAgenda rest))

/-- Every step is one of the moves. -/
theorem step_move (s : State) : Move s (step s) := by
  unfold step takeTurn
  split
  · rename_i rest ha
    exact .reset rest ha
  · rename_i hnr
    split
    · rename_i t hh
      unfold heldTurn Machine.offer
      split
      · exact .perform t ‹_› hh
      · rename_i hp
        split
        · rename_i rest ha
          rw [engineStep_of_busy (s := s.setAgenda rest) hp]
          exact .complete rest hp (.inr ha)
        · rw [engineStep_of_busy hp]
          exact .complete s.agenda hp (.inl rfl)
    · rename_i hh
      unfold freeTurn Machine.offer
      split
      · rename_i t rest ha
        exact .offer t rest hh ha
      · rename_i rest ha
        cases hp : s.phase with
        | busy => rw [engineStep_of_busy (s := s.setAgenda rest) hp]; exact .complete rest hp (.inr ha)
        | idle => rw [engineStep_of_idle (s := s.setAgenda rest) hp]; exact .wait rest hp (.inr ha)
      · rename_i rest ha
        exact absurd ha (hnr rest)
      · cases hp : s.phase with
        | busy => rw [engineStep_of_busy hp]; exact .complete s.agenda hp (.inl rfl)
        | idle => rw [engineStep_of_idle hp]; exact .wait s.agenda hp (.inl rfl)

/-- A command that starts is completed by the Engine's step. -/
theorem runCommand_of_start {s : State} {c : Command} (h : exec c.toInstr s = .next ((s.respond none).start c)) :
    runCommand c s = complete Config.hash ((s.respond none).start c) := by
  simp only [runCommand, h]
  exact engineStep_of_busy rfl

/-- All that running a well-formed command in IDLE can do: the XOR in `XR`; the packed elements in `R0..R3` on valid
parameters, with some scratch left; or its parameter errors in `STATUS`. -/
theorem runCommand_cases {s : State} {c : Command} (hw : c.wellFormed = true) (hp : s.phase = .idle) :
    (c.op = .xorall ∧ runCommand c s = .next ((((s.respond none).start c).setXr (combine s.aVec)).finish)) ∨
    (∃ n q scratch, c.op ≠ .xorall ∧ dim? s.nrows = some n ∧ modulus? (s.qEff c.qdef) = some q ∧
      runCommand c s = .next (((((s.respond none).start c).setScratch scratch).setResult
        (pack (Elements Config.hash s n q c.op))).finish)) ∨
    (c.op ≠ .xorall ∧ (dimErr s.nrows || modErr (s.qEff c.qdef)) = true ∧
      runCommand c s =
        .next ((s.respond none).raise (statusError (dimErr s.nrows) (modErr (s.qEff c.qdef))))) := by
  have hx := exec_toInstr hw s
  rw [transact_of_idle hp] at hx
  rcases accept_cases c (s.respond none) with ⟨ha, hv⟩ | ⟨hop, he, ha⟩
  · rw [ha] at hx
    obtain ⟨t, ht⟩ := complete_of_valid Config.hash (s := (s.respond none).start c) hv
    rcases complete_cases ht with ⟨h, rfl⟩ | ⟨h, n, q, scratch, hn, hq, rfl⟩
    · exact .inl ⟨h, (runCommand_of_start hx).trans ht⟩
    · exact .inr (.inl ⟨n, q, scratch, h, hn, hq, (runCommand_of_start hx).trans ht⟩)
  · rw [ha] at hx
    refine .inr (.inr ⟨hop, he, ?_⟩)
    simp only [runCommand, hx]
    exact engineStep_of_idle hp

end Sys2Proof.Machine
end

