-- ==== Sys2Proof/Tests/Slice0.lean ====
section
/-! SUPPORT. Tests: words written out from the spec's encodings, the spec's own vectors under its test hash TOYHASH
(spec/95_test_vectors.md section 1), and for each statement of Obligations.lean a witness that meets its hypotheses. -/

namespace Sys2Proof.Tests
open Sys2Proof.Machine

/-! ### Well-formedness -/

/-- XORALL takes no modulus (R93): the one ill-formed term. -/
theorem test_xorall_with_qdef_is_ill_formed : (Instr.xorall true).wellFormed = false := by decide
theorem test_xorall_is_well_formed : (Instr.xorall false).wellFormed = true := by decide

/-! ### Decoding: words from R91, R92 (vectors V-DE) and R98 (vectors V-PO) -/

theorem test_decode_acc : decodeTableWord 256 0x001 = some (.acc false) ∧ decodeTableWord 256 0x101 = some (.acc true) := by
  decide
theorem test_decode_upd : decodeTableWord 256 0x002 = some (.upd false) ∧ decodeTableWord 256 0x102 = some (.upd true) := by
  decide
theorem test_decode_xorall : decodeTableWord 256 0x003 = some (.xorall false) := by decide
theorem test_decode_drow : decodeTableWord 256 0x004 = some (.drow false) ∧ decodeTableWord 256 0x104 = some (.drow true) := by
  decide
/-- V-PO2, and V-PO5: `RD NROWS`, `RD CMD`; the data of a read is ignored. -/
theorem test_decode_rd : decodeTableWord 264 (0x02 * 2 ^ 256) = some (.rd 0x02) ∧
    decodeTableWord 264 (0x1F * 2 ^ 256 + 0xFF) = some (.rd 0x1F) := by decide
/-- V-PO1, V-PO9: `WR NROWS, 4`, `WR XR, 0xdead`. -/
theorem test_decode_wr : decodeTableWord 264 (0x22 * 2 ^ 256 + 4) = some (.wr 0x02 4) ∧
    decodeTableWord 264 (0x30 * 2 ^ 256 + 0xdead) = some (.wr 0x10 0xdead) := by decide
/-- V-DE8 to V-DE15: illegal words. -/
theorem test_decode_illegal :
    [0x000, 0x100, 0x103, 0x005, 0x00f, 0x105, 0x10f, 0x011, 0x081, 0x0f1, 0x201, 0x301, 0x10001, 2 ^ 255 + 1,
      2 ^ 256 - 1].all (fun w => (decodeTableWord 256 w).isNone) = true := by decide
theorem test_reject_by_name : decodeCommand 0x103 = .error .xorallWithQdef ∧ decodeCommand 0x105 = .error (.reservedOpcode 5) ∧
    decodeCommand 0x011 = .error .reservedBits := by
  refine ⟨rfl, rfl, rfl⟩

/-! ### The test hash and small states -/

/-- One byte absorbed by TOYHASH. -/
def absorb (h : Nat) (b : Byte) : Nat := ((h ^^^ b.toNat) * 0x100000001b3) % 2 ^ 64

/-- One 64-bit output word of TOYHASH. -/
def mix (h : Nat) : Nat :=
  let z := ((h ^^^ (h >>> 30)) * 0xbf58476d1ce4e5b9) % 2 ^ 64
  let z := ((z ^^^ (z >>> 27)) * 0x94d049bb133111eb) % 2 ^ 64
  z ^^^ (z >>> 31)

/-- TOYHASH (spec/95_test_vectors.md section 1). -/
def toyHash (m : List Byte) : Word :=
  let h := m.foldl absorb 0xcbf29ce484222325
  let g := fun j => mix ((h + (j + 1) * 0x9e3779b97f4a7c15) % 2 ^ 64)
  BitVec.ofNat 256 (g 0 + g 1 * 2 ^ 64 + g 2 * 2 ^ 128 + g 3 * 2 ^ 192)

/-- SEED = 1, STEP = 2, NROWS = 4 and X = 5: the operands of V-AC1. -/
def idle : State := { State.reset with seed := 1, stepIdx := 2, nrows := 4, x := 5, row := 3 }

/-- The same with a command in progress. -/
def busy (c : Command) : State := idle.start c

/-- What a step answered, read off. -/
def after {α : Type} (f : State → α) (r : Result) : Option α :=
  match r with
  | .next s => some (f s)
  | .fault _ => none
  | .refused _ => none

/-- The check value of TOYHASH for "abc". -/
theorem test_toyHash : toyHash [0x61, 0x62, 0x63] =
    0xa1396de349ce0c22025033e36b2233184977c9b011719f2d29e32c04ec3f9c30 := by decide +kernel

/-! ### Instructions: the spec's vectors -/

/-- V-AC1. -/
theorem test_acc_completion : after State.rVec (complete toyHash (busy ⟨.acc, true⟩)) =
    some ⟨0xb5e70d8d5024dba1, 0, 0, 0⟩ := by decide +kernel
/-- V-VA12: comparisons are on all 256 bits. -/
theorem test_acc_both_errors : after State.status (exec (.acc false)
    { idle with nrows := BitVec.allOnes 256, q := BitVec.ofNat 256 (2 ^ 255) }) = some 0x0E := by decide
/-- V-UP1. -/
theorem test_upd_completion : after State.rVec (complete toyHash
    { busy ⟨.upd, true⟩ with a0 := 0xb5e70d8d5024dba1, x := 7, stepIdx := 3 }) =
    some ⟨0xa819a3650cedac51, 0, 0, 0⟩ := by decide +kernel
/-- V-UP7. -/
theorem test_upd_dimension_error : after State.status (exec (.upd true) { idle with nrows := 65 }) = some 0x06 := by decide
/-- V-DR6: q = 1000. -/
theorem test_drow_completion : after State.rVec (complete toyHash { busy ⟨.drow, false⟩ with q := 1000 }) =
    some ⟨0x2e70299023c0386, 0, 0, 0⟩ := by decide +kernel
/-- V-DR4: the second block is used for one lane. -/
theorem test_drow_second_block : after (fun s => (s.r0, s.r1, s.r2)) (complete toyHash
    { busy ⟨.drow, true⟩ with nrows := 17 }) =
    some (0x61b1fab92dc9b711818668ef937d0ff2e716dd1800da242faadf4cd1fc3c6916, 0xeb7f, 0) := by decide +kernel
/-- V-XR1. -/
theorem test_xorall_completion : after State.xr (complete toyHash { busy ⟨.xorall, false⟩ with
    a0 := 0x1111, a1 := 0x22220000, a2 := 0x4444 <<< 240, a3 := 0x8888 }) =
    some (0x4444 <<< 240 ||| 0x22229999) := by decide
/-- V-VA15: XORALL is not validated. -/
theorem test_xorall_unvalidated : after State.status (exec (.xorall false) { idle with nrows := 0, q := 0 }) = some 0x01 := by
  decide
/-- V-RS1. -/
theorem test_rd_after_reset : after State.rsp (exec (.rd 0x03) State.reset) = some (some 65521) := by decide
/-- V-RS6, V-RS7: in BUSY a read of STATUS is accepted, a read of R0 is held. -/
theorem test_rd_busy : after State.rsp (exec (.rd 0x01) (busy ⟨.acc, true⟩)) = some (some 0x01) ∧
    after State.held (exec (.rd 0x0C) (busy ⟨.acc, true⟩)) = some (some ⟨false, 0x0C, 0⟩) := by decide
/-- V-VA16: an illegal word is not validated. -/
theorem test_wr_illegal : after State.status (exec (.wr 0x00 0x005) { idle with nrows := 0, q := 0 }) = some 0x12 := by decide
/-- V-PO12: `A3` and `R3` are different registers. -/
theorem test_wr_a3 : after (fun s => (s.a3, s.r3)) (exec (.wr 0x0B 7) idle) = some (7, 0) := by decide

/-! ### Functions -/

/-- V-PR3. -/
theorem test_be32_top_bit : (be32 (BitVec.ofNat 256 (2 ^ 255))).head? = some 0x80 := by decide
/-- V-PK2, V-PK5. -/
theorem test_pack : pack (List.replicate 16 0 ++ [0xabcd]) = ⟨0, 0xabcd, 0, 0⟩ ∧ pack [0x1abcd] = ⟨0xabcd, 0, 0, 0⟩ := by decide
/-- V-PK6. -/
theorem test_unpack : unpack ⟨0x000300020001, 0xabcd, 0, 0⟩ 18 =
    [1, 2, 3, 0, 0, 0, 0, 0, 0, 0, 0, 0, 0, 0, 0, 0, 43981, 0] := by decide
/-- V-AC2: the running sum of row 0, 72596 - 65521. -/
theorem test_running_sum : runningSum 65521 0xf 0 0 [12827, 7012, 43398, 9359] = 7075 := by decide
/-- V-VA10 as the software function: the dimension is checked first. -/
theorem test_accumulate_checks_dimension_first : accumulate toyHash 0 0 0 0 0 = .error .dimension := rfl
/-- The sequencer's `Y` after V-AC1. -/
theorem test_sequencer : (complete toyHash (busy ⟨.acc, true⟩) |> after fun s => (s.scratch.y[2], s.scratch.sum)) =
    some (3469, 46567) := by decide +kernel
/-- `LDA` writes the four words to 0x08 .. 0x0B (R102). -/
theorem test_lda : (ldaLines ⟨1, 2, 3, 4⟩).map (fun t => (t.addr, t.wdata)) = [(0x08, 1), (0x09, 2), (0x0A, 3), (0x0B, 4)] := by
  decide
/-- `ACCUMULATE` without q (R102): four operand writes, `CMD ACC.D`, one poll, `RD STATUS`, `RDRES`. -/
theorem test_accumulate_lines : (accumulateLines 5 2 4 1 none 1).map (fun t => (t.write, t.addr, t.wdata)) =
    [(true, 0x06, 5), (true, 0x04, 2), (true, 0x02, 4), (true, 0x05, 1), (true, 0x00, 0x101), (false, 0x01, 0),
      (false, 0x01, 0), (false, 0x0C, 0), (false, 0x0D, 0), (false, 0x0E, 0), (false, 0x0F, 0)] := by decide

/-! ### Witnesses: a state and operands that meet each statement's hypotheses -/

/-- A dimension and a modulus at the ends of their ranges. -/
def n1 : Dim := ⟨1, by decide⟩
@[inherit_doc n1] def n4 : Dim := ⟨4, by decide⟩
@[inherit_doc n1] def n64 : Dim := ⟨64, by decide⟩
@[inherit_doc n1] def q2 : Modulus := ⟨2, by decide⟩
@[inherit_doc n1] def qMax : Modulus := ⟨65521, by decide⟩

/-- A safe BUSY state with an operand write, an Engine turn and a read to come. -/
def busyLate : State :=
  { busy ⟨.acc, true⟩ with agenda := [.host ⟨true, OperandReg.x.addr, 9⟩, .engine, .host rdStatus] }

theorem busy_controlInv (s : State) (hs : s.status = statusBusy) (hp : s.phase = .busy) (hc : s.cur = ⟨.acc, true⟩)
    (hn : s.nrows = 4) (hh : s.held = none) : ControlInv s := by
  refine ⟨by rw [hs]; decide, by simp [hp, hs], fun _ => by rw [hc]; rfl, fun _ => .inr ?_, by simp [hh]⟩
  rw [hn, hc]
  exact ⟨by decide, by show (modulus? (BitVec.ofNat 256 Config.qDefault)).isSome = true; decide⟩

theorem witness_DecodeEncodeReturnsTheInstruction :
    (Instr.xorall false).wellFormed = true ∧ (Instr.wr 0x1F (BitVec.allOnes 256)).wellFormed = true := by decide
theorem witness_IllegalWordSetsStatusOnly : idle.phase = .idle ∧ decodeCommand 0x103 = .error .xorallWithQdef :=
  ⟨rfl, rfl⟩
theorem witness_PortRequestFieldsDecode : (BitVec.allOnes 262).getLsbD 261 = true ∧ (0#262).getLsbD 261 = false := by decide
theorem witness_DecodedCommandEncodesBack : decodeCommand 0x104 = .ok ⟨.drow, true⟩ := rfl
theorem witness_StepRunsTheOfferedInstruction : ∃ (s : State) (rest : List Turn), s.held = none ∧
    s.agenda = .host ⟨true, 0x00, 0x101⟩ :: rest ∧ decode (.port (Request.toBits ⟨true, 0x00, 0x101⟩)) = .ok (.wr 0x00 0x101) ∧
    decode (.cw 0x101) = .ok (.acc true) :=
  ⟨{ idle with agenda := [.host ⟨true, 0x00, 0x101⟩] }, [], rfl, rfl, rfl, rfl⟩
theorem witness_PlacedTableWordRunsNext : decodeTableWord 264 (0x3F * 2 ^ 256) = some (.wr 0x1F 0) := by decide
theorem witness_TransactionsAreHeldWhileBusy : idle.phase = .idle ∧ (busy ⟨.acc, true⟩).phase = .busy ∧
    (0x00 : RegAddr) ≠ 0x01 ∧ (0x1F : RegAddr) ≠ 0x01 ∧
    ∃ s : State, s.held = some (rdLine .r0) ∧ s.phase = .idle ∧ s.agenda.head? ≠ some .reset :=
  ⟨rfl, rfl, by decide, by decide, { idle with held := some (rdLine .r0) }, rfl, rfl, by decide⟩
theorem witness_CommandIsTheWriteOfItsWord : decodeCommand 0x003 = .ok ⟨.xorall, false⟩ := rfl
theorem witness_BusyStepCompletesTheCommand : (busy ⟨.acc, true⟩).phase = .busy ∧ (busy ⟨.acc, true⟩).held = none ∧
    (busy ⟨.acc, true⟩).agenda = [] ∧
    (∃ s : State, s.phase = .busy ∧ s.held = some (rdLine .r0) ∧ s.agenda.head? ≠ some .reset ∧ s.agenda.head? ≠ some .engine) ∧
    (∃ s : State, s.phase = .busy ∧ s.agenda = [.engine]) :=
  ⟨rfl, rfl, rfl, ⟨{ busy ⟨.acc, true⟩ with held := some (rdLine .r0) }, rfl, rfl, by decide, by decide⟩,
    ⟨{ busy ⟨.acc, true⟩ with agenda := [.engine] }, rfl, rfl⟩⟩
theorem witness_BusyEndsWithinTheAgenda : ControlInv busyLate ∧ busyLate.phase = .busy :=
  ⟨busy_controlInv _ rfl rfl rfl rfl rfl, rfl⟩
theorem witness_ResetTakesTheResetValues : ∃ (s : State) (rest : List Turn), s.agenda = .reset :: rest :=
  ⟨{ idle with agenda := [.reset, .engine] }, [.engine], rfl⟩
theorem witness_ResetAbandonsTheCommand : (∃ s : State, s.phase = .busy ∧ s.agenda = [.reset] ∧
      s.held = some (rdLine .r0) ∧ (0x0C : RegAddr).toNat = 0x0C ∧ (0x10 : RegAddr).toNat = 0x10) ∧
    ∃ s t : State, s.phase = .busy ∧ step s = .next t ∧ t.phase = .idle :=
  ⟨⟨{ busy ⟨.acc, true⟩ with agenda := [.reset], held := some (rdLine .r0) }, rfl, rfl, rfl, rfl, rfl⟩,
    busy ⟨.xorall, false⟩, { busy ⟨.xorall, false⟩ with status := 2, phase := .idle }, rfl, rfl, rfl⟩
theorem witness_ReadReturnsTheRegisterAtItsAddress : idle.phase = .idle ∧
    ((busy ⟨.acc, true⟩).phase = .idle ∨ (0x01 : RegAddr) = 0x01) := ⟨rfl, .inr rfl⟩
theorem witness_OperandWriteStoresTheWord : idle.phase = .idle ∧ OperandReg.x ≠ OperandReg.a3 := by decide
theorem witness_OtherWritesAreIgnored : idle.phase = .idle ∧ ((0x01 : RegAddr) = 0x01 ∨ 0x0C ≤ (0x01 : RegAddr).toNat) ∧
    ((0x0C : RegAddr) = 0x01 ∨ 0x0C ≤ (0x0C : RegAddr).toNat) ∧ ((0x1F : RegAddr) = 0x01 ∨ 0x0C ≤ (0x1F : RegAddr).toNat) := by
  decide
theorem witness_OperandsChangeOnlyByWriteOrReset : ∃ s t : State, step s = .next t ∧ t.operand .x ≠ s.operand .x :=
  ⟨{ idle with agenda := [.host (wrLine .x 9)] }, { idle with x := 9 }, rfl, by decide⟩
theorem witness_ResultsChangeOnlyByCompletionOrReset : (∃ t, exec (.rd 0x0C) idle = .next t) ∧
    ∃ s t : State, step s = .next t ∧ t.result .xr ≠ s.result .xr :=
  ⟨⟨_, rfl⟩, { busy ⟨.xorall, false⟩ with a0 := 1 },
    { busy ⟨.xorall, false⟩ with a0 := 1, xr := 1, status := 2, phase := .idle }, rfl, by decide⟩
/-- Each of the six cases of R44. -/
theorem witness_CommandAcceptance : idle.phase = .idle ∧ decodeCommand 0x000 = .error (.reservedOpcode 0) ∧
    decodeCommand 0x003 = .ok ⟨.xorall, false⟩ ∧ decodeCommand 0x001 = .ok ⟨.acc, false⟩ ∧ (Op.acc ≠ Op.xorall) ∧
    after State.status (exec (.acc false) { idle with nrows := 0, q := 1 }) = some 0x0E ∧
    after State.status (exec (.acc false) { idle with nrows := 65, q := 2 }) = some 0x06 ∧
    after State.status (exec (.acc false) { idle with nrows := 64, q := 65522 }) = some 0x0A ∧
    after State.status (exec (.acc false) { idle with nrows := 1, q := 65521 }) = some 0x01 :=
  ⟨rfl, rfl, rfl, rfl, by decide, by decide, by decide, by decide, by decide⟩
theorem witness_CompletionWritesTheResult : ∀ op, (busy ⟨op, true⟩).phase = .busy ∧ (busy ⟨op, true⟩).nrows.toNat = n4.val ∧
    (if (busy ⟨op, true⟩).cur.qdef then 65521 else (busy ⟨op, true⟩).q.toNat) = qMax.val ∧
    (busy ⟨op, true⟩).cur.op = op := fun _ => ⟨rfl, rfl, rfl, rfl⟩
/-- For ACC, UPD and DROW, with `QDEF` = 1 and with `QDEF` = 0 at the least modulus. -/
abbrev ValidParameters : Prop := idle.phase = .idle ∧ idle.nrows.toNat = n4.val ∧
    (if true then 65521 else idle.q.toNat) = qMax.val ∧
    ∃ s : State, s.phase = .idle ∧ s.nrows.toNat = n64.val ∧ (if false then 65521 else s.q.toNat) = q2.val
theorem witness_AccCompletesWithTheAccumulation : ValidParameters :=
  ⟨rfl, rfl, rfl, { idle with nrows := 64, q := 2 }, rfl, rfl, rfl⟩
theorem witness_UpdCompletesWithTheUpdate : ValidParameters := witness_AccCompletesWithTheAccumulation
theorem witness_DrowCompletesWithTheRow : ValidParameters := witness_AccCompletesWithTheAccumulation
theorem witness_XorallCompletesWithTheXor : idle.phase = .idle := rfl
theorem witness_ParameterErrorsWriteStatusOnly : ∃ s : State, s.phase = .idle ∧ Op.drow ≠ Op.xorall ∧ s.nrows.toNat > 64 ∧
    s.q.toNat < 2 := ⟨{ idle with nrows := 65, q := 1 }, rfl, by decide, by decide, by decide⟩
theorem witness_ValidationBoundaries : idle.phase = .idle ∧ Op.upd ≠ Op.xorall ∧
    ((65, if true then 65521 else 0, 0x06) : Word × Word × Word) ∈ ([(65, 65521, 0x06)] : List (Word × Word × Word)) ∧
    ((4, if false then 65521 else 65522, 0x0A) : Word × Word × Word) ∈ ([(4, 65522, 0x0A)] : List (Word × Word × Word)) :=
  ⟨rfl, by decide, by decide, by decide⟩
theorem witness_CommandAcceptanceFrame : (∃ t, exec (Command.toInstr ⟨.acc, true⟩) idle = .next t) ∧
    (∃ t, exec (Command.toInstr ⟨.acc, true⟩) (busy ⟨.drow, true⟩) = .next t) := ⟨⟨_, rfl⟩, ⟨_, rfl⟩⟩
theorem witness_CompletionFrame : (∃ t, complete toyHash (busy ⟨.xorall, false⟩) = .next t) ∧
    ResultReg.r0 ∉ (busy ⟨.xorall, false⟩).cur.writes := ⟨⟨_, rfl⟩, by decide⟩
theorem witness_TransactionFrame : (∃ t, exec (.rd 0x05) idle = .next t) ∧ (∃ t, exec (.wr 0x00 0x104) idle = .next t) ∧
    (∃ t, exec (.wr 0x06 1) (busy ⟨.acc, true⟩) = .next t) ∧ OperandReg.x.addr ≠ 0x00 := ⟨⟨_, rfl⟩, ⟨_, rfl⟩, ⟨_, rfl⟩, by decide⟩
/-- Both outcomes of the function meet the clauses. -/
theorem witness_AccCommandIsAccumulate : idle.phase = .idle ∧ (∃ w, accCall Config.hash true idle = .ok w) ∧
    accCall Config.hash false { idle with nrows := 0 } = .error .dimension ∧
    accCall Config.hash false { idle with q := 1 } = .error .modulus := ⟨rfl, ⟨_, rfl⟩, rfl, rfl⟩
theorem witness_UpdCommandIsUpdate : idle.phase = .idle ∧ (∃ w, updCall Config.hash true idle = .ok w) ∧
    updCall Config.hash false { idle with nrows := 65, q := 0 } = .error .dimension ∧
    updCall Config.hash false { idle with q := 65522 } = .error .modulus := ⟨rfl, ⟨_, rfl⟩, rfl, rfl⟩
/-- Two states that differ in X, Q, R0 and the scratch agree on what DROW.D reads. -/
theorem witness_CommandDependsOnlyOnWhatItReads : ∃ s s' : State, s.phase = .idle ∧ s'.phase = .idle ∧ s ≠ s' ∧
    (Command.mk .drow true).wellFormed = true ∧ ∀ o, o ∈ (Command.mk .drow true).reads → s.operand o = s'.operand o :=
  ⟨idle, { idle with x := 9, q := 0, r0 := 1 }, rfl, rfl, by decide, rfl, by decide⟩
theorem witness_RepeatedCommandGivesTheSameResult : (Command.mk .xorall false).wellFormed = true ∧ idle.phase = .idle ∧
    ∃ t, runCommand ⟨.xorall, false⟩ idle = .next t := ⟨rfl, rfl, ⟨_, rfl⟩⟩
theorem witness_OperandWriteAfterCommandIsLate : ControlInv busyLate ∧ busyLate.phase = .busy ∧ busyLate.held = none ∧
    ∃ rest, busyLate.agenda = .host ⟨true, OperandReg.x.addr, 9⟩ :: .engine :: rest ∧ rest.head? ≠ some .reset :=
  ⟨busy_controlInv _ rfl rfl rfl rfl rfl, rfl, rfl, [.host rdStatus], rfl, by decide⟩
theorem witness_EveryStepKeepsTheControlInvariant : ControlInv busyLate ∧ ∃ t, step busyLate = .next t :=
  ⟨busy_controlInv _ rfl rfl rfl rfl rfl, ⟨_, rfl⟩⟩
theorem witness_EveryStepKeepsResultLanesInRange : ResultLanesInRange busyLate ∧ ∃ t, step busyLate = .next t := by
  refine ⟨?_, ⟨_, rfl⟩⟩
  have h : ∀ i : Fin 4, ∀ j : Fin 16, (lane (busyLate.rVec.word i.val) j.val).toNat < Config.qMax := by decide
  exact fun i j hi hj => h ⟨i, hi⟩ ⟨j, hj⟩
theorem witness_SafeStatesAlwaysStep : ControlInv (busy ⟨.acc, true⟩) ∧ (busy ⟨.acc, true⟩).phase = .busy :=
  ⟨busy_controlInv _ rfl rfl rfl rfl rfl, rfl⟩
theorem witness_LaneIsShiftAndMask : (0 : Nat) < 16 ∧ (15 : Nat) < 16 := by decide
theorem witness_DeriveRowTakesLanesInOrder : 0 < n1.val ∧ 63 < n64.val := by decide
/-- Two hashes that agree on the row seed and differ in lane 4 of the block digest, which N = 4 does not use. -/
theorem witness_RowUsesOnlyItsBlocks : ∃ hash hash' : List Byte → Word,
    rowSeed hash 1 2 3 = rowSeed hash' 1 2 3 ∧
    blockDigest hash (rowSeed hash 1 2 3) 0 ≠ blockDigest hash' (rowSeed hash 1 2 3) 0 ∧
    ∀ b k, b < (n4.val + 15) / 16 → k < 16 → 16 * b + k < n4.val →
      lane (blockDigest hash (rowSeed hash 1 2 3) b) k = lane (blockDigest hash' (rowSeed hash 1 2 3) b) k := by
  have hd : ∀ b, blockDigest (fun m => if m.length = 64 then 0x10000000000000000 else 0) (rowSeed (fun _ => 0) 1 2 3) b = 0x10000000000000000 := by
    intro b
    simp [blockDigest, be32, Config.enc]
  refine ⟨fun _ => 0, fun m => if m.length = 64 then 0x10000000000000000 else 0, by simp [rowSeed, be32, Config.enc], ?_, ?_⟩
  · rw [hd]
    decide
  · intro b k hb hk hn
    rw [hd]
    have h : ∀ k : Fin 4, lane 0 k.val = lane (0x10000000000000000) k.val := by decide
    exact h ⟨k, by simp only [n4] at hb hn; omega⟩
theorem witness_ReductionAtTheGreatestAndLeastModulus : qMax.val = 65521 ∧ q2.val = 2 ∧
    65521 ≤ (lane (blockDigest (fun _ => BitVec.allOnes 256) 0 0) 0).toNat ∧
    (lane (blockDigest (fun _ => 65520) 0 0) 0).toNat < 65521 := by decide
theorem witness_CoefficientsAreBelowTheModulus : 0 ∈ deriveRow (fun _ => 0) 1 2 3 n4 q2 := by decide
theorem witness_RowDoesNotDependOnTheDimension : n1.val ≤ n64.val := by decide
theorem witness_HigherInputBitsAreIgnored : 0 < n1.val ∧ 63 < n64.val := by decide
theorem witness_ThreeReductionMethodsAgree : 0 < 5 ∧ ∀ a, a ∈ [4, 3, 0] → a < 5 := by decide
theorem witness_ZeroInputGivesTheZeroVector : (0x10 : Word).toNat % 2 ^ n4.val = 0 ∧ n1.val = 1 := by decide
theorem witness_OutputElementsAreBelowTheModulus : 0 ∈ accumulateVec (fun _ => 0) 5 2 n4 1 q2 := by decide
theorem witness_AccumulationIsLinear : 3 < n4.val ∧ ∀ c : Fin 4, ((5 : Word).getLsbD c && (0x12 : Word).getLsbD c) = false := by
  decide
theorem witness_SequencerComputesTheElements : 0 < n1.val ∧ 63 < n64.val := by decide
theorem witness_PackPlacesEachElementInItsLane : ([1, 2, 3] : List Nat).length ≤ 64 ∧
    (List.replicate 64 7).length ≤ 64 ∧ (([1, 2, 3] : List Nat).length + 15) / 16 ≤ 1 := by decide
theorem witness_PackUnpackRoundTrip : ([1, 65535] : List Nat).length ≤ 64 ∧ ∀ y, y ∈ [1, 65535] → y < 2 ^ 16 := by decide
theorem witness_CombineIsTheXorOfTheWords : ([4, 3, 2, 1] : List Word).Perm [1, 2, 3, 4] := by decide

end Sys2Proof.Tests
end

section
/-! PROOFS. The big-endian encoding `be32` (R15): its length, its bytes, and the number its leading bytes spell. -/

namespace Sys2Proof.Machine

@[simp] theorem be32_length (v : Word) : (be32 v).length = 32 := by
  simp [be32, Config.enc]

theorem be32_getElem? (v : Word) {i : Nat} (hi : i < 32) :
    (be32 v)[i]? = some (BitVec.ofNat 8 (v.toNat / 2 ^ (248 - 8 * i))) := by
  have hshift : 8 * (31 - i) = 248 - 8 * i := by omega
  simp [be32, Config.enc, hi, hshift, BitVec.extractLsb', Nat.shiftRight_eq_div_pow]

/-- The number a list of bytes spells in base 256, most significant byte first. -/
def beValue (bs : List Byte) : Nat := bs.foldl (fun n b => n * 256 + b.toNat) 0

@[simp] theorem beValue_concat (bs : List Byte) (b : Byte) :
    beValue (bs ++ [b]) = beValue bs * 256 + b.toNat := by
  simp [beValue]

/-- The first `k` bytes of `be32 v` spell the top `8 * k` bits of `v`. -/
theorem beValue_take_be32 (v : Word) : ∀ k ≤ 32,
    beValue ((be32 v).take k) = v.toNat / 2 ^ (256 - 8 * k)
  | 0, _ => by simp [beValue, Nat.div_eq_of_lt v.isLt]
  | k + 1, hk => by
    have hpow : 2 ^ (256 - 8 * k) = 2 ^ (248 - 8 * k) * 256 := by
      rw [show 256 - 8 * k = (248 - 8 * k) + 8 by omega, Nat.pow_add]
    have hnext : 256 - 8 * (k + 1) = 248 - 8 * k := by omega
    calc beValue ((be32 v).take (k + 1))
        = beValue ((be32 v).take k) * 256 + v.toNat / 2 ^ (248 - 8 * k) % 256 := by
          simp [List.take_add_one, be32_getElem? v hk]
      _ = v.toNat / 2 ^ (248 - 8 * k) / 256 * 256 + v.toNat / 2 ^ (248 - 8 * k) % 256 := by
          rw [beValue_take_be32 v k (by omega), hpow, Nat.div_div_eq_div_mul]
      _ = v.toNat / 2 ^ (256 - 8 * (k + 1)) := by
          rw [Nat.div_add_mod', hnext]

theorem beValue_be32 (v : Word) : beValue (be32 v) = v.toNat := by
  have h := beValue_take_be32 v 32 le_rfl
  rwa [List.take_of_length_le (be32_length v).le, Nat.sub_self, pow_zero, Nat.div_one] at h

/-- Settles O43: the value clause follows by induction on the number of leading bytes read. -/
theorem be32IsBigEndian : Obligations.Be32IsBigEndian :=
  fun v => ⟨be32_length v, fun _ hi => be32_getElem? v hi, beValue_be32 v⟩

end Sys2Proof.Machine
end

section
/-! PROOFS. What an instruction's own step and a completion leave unchanged, each read once from the list of their
possible effects (`Effect`, `complete_cases`). -/

namespace Sys2Proof.Machine

variable {s t : State} {i : Instr} {c : Command} {hash : List Byte → Word}

/-! ### An instruction's own step -/

theorem Effect.result_eq (h : Effect i s t) (r : ResultReg) : t.result r = s.result r := by
  cases h <;> simp

theorem Effect.scratch_eq (h : Effect i s t) : t.scratch = s.scratch := by
  cases h <;> simp

theorem Effect.agenda_eq (h : Effect i s t) : t.agenda = s.agenda := by
  cases h <;> simp

theorem Effect.held_eq_of_idle (h : Effect i s t) (hp : s.phase = .idle) : t.held = s.held := by
  cases h with
  | held u hb => rw [hp] at hb; cases hb
  | _ => simp

/-- A BUSY block only holds what is offered, or returns `STATUS` (R64). -/
theorem Effect.control_eq_of_busy (h : Effect i s t) (hp : s.phase = .busy) :
    t.status = s.status ∧ t.phase = s.phase ∧ t.cur = s.cur := by
  cases h with
  | held => exact ⟨rfl, rfl, rfl⟩
  | read => exact ⟨rfl, rfl, rfl⟩
  | start _ hi | illegal hi | error _ _ hi | write _ _ hi | ignored hi => rw [hp] at hi; cases hi

/-- Only the write of the new value to its own address, performed in IDLE, changes an operand register. -/
theorem Effect.write_of_operand_ne (h : Effect i s t) {o : OperandReg} (hne : t.operand o ≠ s.operand o) :
    s.phase = .idle ∧ i = .wr o.addr (t.operand o) := by
  cases h with
  | write o' v hp hi =>
    by_cases ho : o = o'
    · subst ho
      exact ⟨hp, by simpa using hi⟩
    · exact absurd (State.setOperand_operand_ne _ o' o v ho) hne
  | _ => exact absurd rfl hne

theorem Effect.operand_eq_of_command (h : Effect c.toInstr s t) (o : OperandReg) : t.operand o = s.operand o := by
  by_contra hne
  obtain ⟨-, hi⟩ := h.write_of_operand_ne hne
  obtain ⟨op, qdef⟩ := c
  cases op <;> cases hi

/-! ### The completion -/

/-- `setResult` changes only the four result words that a packing command writes. -/
theorem State.setResult_result_of_notMem (s : State) (w : Container) {c : Command} (hop : c.op ≠ .xorall)
    {r : ResultReg} (hr : r ∉ c.writes) : (s.setResult w).result r = s.result r := by
  obtain ⟨op, qdef⟩ := c
  cases r with
  | xr => rfl
  | _ => cases op <;> simp [Command.writes] at hop hr

/-- `setXr` changes only the register XORALL writes. -/
theorem State.setXr_result_of_notMem (s : State) (v : Word) {c : Command} (hop : c.op = .xorall)
    {r : ResultReg} (hr : r ∉ c.writes) : (s.setXr v).result r = s.result r := by
  cases r with
  | xr => simp [Command.writes, hop] at hr
  | _ => rfl

theorem complete_result_of_notMem (h : complete hash s = .next t) {r : ResultReg} (hr : r ∉ s.cur.writes) :
    t.result r = s.result r := by
  obtain ⟨hop, rfl⟩ | ⟨hop, n, q, scratch, -, -, rfl⟩ := complete_cases h
  · exact s.setXr_result_of_notMem _ hop hr
  · exact (s.setScratch scratch).setResult_result_of_notMem _ hop hr

theorem complete_operand (h : complete hash s = .next t) (o : OperandReg) : t.operand o = s.operand o := by
  obtain ⟨-, rfl⟩ | ⟨-, n, q, scratch, -, -, rfl⟩ := complete_cases h <;> simp

/-- A completion ends the command with outcome OK (R45). -/
theorem complete_outcome (h : complete hash s = .next t) : t.status = statusOk ∧ t.phase = .idle := by
  obtain ⟨-, rfl⟩ | ⟨-, n, q, scratch, -, -, rfl⟩ := complete_cases h <;> simp

/-- A completion leaves the command and what belongs to the outside world. -/
theorem complete_cur_port_agenda (h : complete hash s = .next t) :
    t.cur = s.cur ∧ t.held = s.held ∧ t.rsp = s.rsp ∧ t.agenda = s.agenda := by
  obtain ⟨-, rfl⟩ | ⟨-, n, q, scratch, -, -, rfl⟩ := complete_cases h <;> simp

/-! ### The moves -/

theorem Request.toInstr_eq_wr {u : Request} {a : RegAddr} {v : Word} (h : u.toInstr = .wr a v) : u = ⟨true, a, v⟩ := by
  obtain ⟨write, addr, wdata⟩ := u
  cases write <;> cases h
  rfl

/-- What a step that answers a next state did: `Move`, with the next state of each move. -/
theorem step_cases (h : step s = .next t) :
    (∃ rest, s.agenda = .reset :: rest ∧ t = (s.setAgenda rest).resetEvent) ∨
    (∃ u, s.phase = .idle ∧ s.held = some u ∧ Effect u.toInstr s.release t) ∨
    (∃ u rest, s.held = none ∧ s.agenda = .host u :: rest ∧ Effect u.toInstr (s.setAgenda rest) t) ∨
    (∃ rest, s.phase = .busy ∧ complete Config.hash (s.setAgenda rest) = .next t) ∨
    (∃ rest, s.phase = .idle ∧ t = s.setAgenda rest) := by
  have hm := step_move s
  generalize step s = r at h hm
  cases hm with
  | reset rest ha => cases h; exact .inl ⟨rest, ha, rfl⟩
  | perform u hp hh => exact .inr (.inl ⟨u, hp, hh, effect_of_exec h⟩)
  | offer u rest hh ha => exact .inr (.inr (.inl ⟨u, rest, hh, ha, effect_of_exec h⟩))
  | complete rest hp => exact .inr (.inr (.inr (.inl ⟨rest, hp, h⟩)))
  | wait rest hp => cases h; exact .inr (.inr (.inr (.inr ⟨rest, hp, rfl⟩)))

end Sys2Proof.Machine
end

section
/-! PROOFS. The control invariant: at reset, and kept by every step (R32, R34, R44, R64). -/

namespace Sys2Proof.Machine

variable {s t : State} {i : Instr}

theorem statusError_mem_legalStatus (d m : Bool) : statusError d m ∈ legalStatus := by
  revert d m; decide

theorem statusError_ne_statusBusy (d m : Bool) : statusError d m ≠ statusBusy := by
  revert d m; decide

theorem ControlInv.status_ne_of_idle (h : ControlInv s) (hp : s.phase = .idle) : s.status ≠ statusBusy := by
  intro hs
  have hb := h.busyStatus.mpr hs
  rw [hp] at hb
  cases hb

/-- In IDLE the invariant speaks of `STATUS` and of the outstanding transaction alone. -/
theorem controlInv_of_idle (hp : s.phase = .idle) (hl : s.status ∈ legalStatus) (hb : s.status ≠ statusBusy)
    (hh : ∀ u, s.held = some u → u.write = true ∨ u.addr ≠ statusAddr) : ControlInv s where
  statusLegal := hl
  busyStatus := by simp [hp, hb]
  curLegal h := by rw [hp] at h; cases h
  paramsValid h := by rw [hp] at h; cases h
  heldNotStatus := hh

theorem controlInv_reset : ControlInv State.reset :=
  controlInv_of_idle rfl (by decide) (by decide) (by intro u hu; cases hu)

/-- The invariant does not speak of the port's data or the agenda, and holds with nothing outstanding. -/
theorem ControlInv.respond (h : ControlInv s) (v : Option Word) : ControlInv (s.respond v) := { h with }

@[inherit_doc ControlInv.respond]
theorem ControlInv.setAgenda (h : ControlInv s) (rest : List Turn) : ControlInv (s.setAgenda rest) := { h with }

@[inherit_doc ControlInv.respond]
theorem ControlInv.release (h : ControlInv s) : ControlInv s.release :=
  { h with heldNotStatus := by intro u hu; cases hu }

theorem controlInv_resetEvent (s : State) : ControlInv s.resetEvent :=
  controlInv_reset.setAgenda s.agenda

/-- An error outcome writes a value of `STATUS` that does not say BUSY (R211). -/
theorem ControlInv.raise (h : ControlInv s) (hp : s.phase = .idle) {v : Word} (hl : v ∈ legalStatus)
    (hb : v ≠ statusBusy) : ControlInv (s.raise v) :=
  controlInv_of_idle hp hl hb h.heldNotStatus

/-- An accepted command is valid, so that the BUSY block it starts meets the invariant (R44). -/
theorem ControlInv.start {c : Command} (h : ControlInv s) (hc : c.wellFormed = true)
    (hv : c.op = .xorall ∨ ((dim? s.nrows).isSome ∧ (modulus? (s.qEff c.qdef)).isSome)) :
    ControlInv (s.start c) where
  statusLegal := by rw [State.start_status]; decide
  busyStatus := by simp
  curLegal _ := hc
  paramsValid _ := hv
  heldNotStatus := h.heldNotStatus

/-- An instruction's own step keeps the invariant. -/
theorem ControlInv.effect (h : ControlInv s) (he : Effect i s t) : ControlInv t := by
  cases he with
  | held u hp hu => exact { h with heldNotStatus := by rintro _ ⟨⟩; exact hu }
  | read v => exact h.respond _
  | start c hp hc hv => exact (h.respond none).start hc hv
  | illegal hp => exact (h.respond none).raise hp (by decide) (by decide)
  | error d m hp =>
    exact (h.respond none).raise hp (statusError_mem_legalStatus d m) (statusError_ne_statusBusy d m)
  | write o v hp =>
    refine controlInv_of_idle ?_ ?_ ?_ ?_
    · simpa using hp
    · simpa using h.statusLegal
    · simpa using h.status_ne_of_idle hp
    · simpa using h.heldNotStatus
  | ignored => exact h.respond _

/-- A completion keeps the invariant, whatever the parameters. -/
theorem ControlInv.complete {hash : List Byte → Word} (h : ControlInv s) (hc : Machine.complete hash s = .next t) :
    ControlInv t := by
  obtain ⟨hs, hp⟩ := complete_outcome hc
  obtain ⟨-, hh, -, -⟩ := complete_cur_port_agenda hc
  refine controlInv_of_idle hp ?_ ?_ ?_
  · rw [hs]; decide
  · rw [hs]; decide
  · rw [hh]; exact h.heldNotStatus

/-- Settles O40, move by move. -/
theorem everyStepKeepsTheControlInvariant : Obligations.EveryStepKeepsTheControlInvariant := by
  intro s t h hstep
  obtain ⟨rest, -, rfl⟩ | ⟨u, -, -, he⟩ | ⟨u, rest, -, -, he⟩ | ⟨rest, -, hc⟩ | ⟨rest, -, rfl⟩ := step_cases hstep
  · exact controlInv_resetEvent _
  · exact h.release.effect he
  · exact (h.setAgenda rest).effect he
  · exact (h.setAgenda rest).complete hc
  · exact h.setAgenda rest

theorem resultLanesInRange_reset : ResultLanesInRange State.reset := by
  intro i j _ _
  have hword : State.reset.rVec.word i = 0#256 := by
    unfold Container.word
    split <;> rfl
  rw [hword, lane_zero]
  decide

/-- Settles O16. -/
theorem resetStateMeetsTheInvariants : Obligations.ResetStateMeetsTheInvariants :=
  ⟨controlInv_reset, resultLanesInRange_reset⟩

end Sys2Proof.Machine
end

section
/-! PROOFS. Which steps change an operand register (R21) and a result register (R29), and the frames of a command's
acceptance and of its completion (R41, R44, R45). -/

namespace Sys2Proof.Machine

/-- Settles O21: of the moves only the outstanding or offered transaction can change an operand without a Reset. -/
theorem operandsChangeOnlyByWriteOrReset : Obligations.OperandsChangeOnlyByWriteOrReset := by
  intro s t o hstep hne
  obtain ⟨rest, ha, -⟩ | ⟨u, -, hh, he⟩ | ⟨u, rest, hh, ha, he⟩ | ⟨rest, -, hc⟩ | ⟨rest, -, rfl⟩ := step_cases hstep
  · exact .inl (by rw [ha]; rfl)
  · obtain ⟨hp, hi⟩ := he.write_of_operand_ne hne
    exact .inr ⟨hp, .inl (by rw [hh, Request.toInstr_eq_wr hi])⟩
  · obtain ⟨hp, hi⟩ := he.write_of_operand_ne hne
    exact .inr ⟨hp, .inr ⟨hh, by rw [ha, Request.toInstr_eq_wr hi]; rfl⟩⟩
  · exact absurd (complete_operand hc o) hne
  · exact absurd rfl hne

/-- Settles O22: an instruction's own step keeps every result, and a completion those its command does not write. -/
theorem resultsChangeOnlyByCompletionOrReset : Obligations.ResultsChangeOnlyByCompletionOrReset := by
  refine ⟨fun i s t h r => (effect_of_exec h).result_eq r, fun s t r hstep hne => ?_⟩
  obtain ⟨rest, ha, -⟩ | ⟨u, -, -, he⟩ | ⟨u, rest, -, -, he⟩ | ⟨rest, hp, hc⟩ | ⟨rest, -, rfl⟩ := step_cases hstep
  · exact .inl (by rw [ha]; rfl)
  · exact absurd (he.result_eq r) hne
  · exact absurd (he.result_eq r) hne
  · obtain ⟨hs, hi⟩ := complete_outcome hc
    exact .inr ⟨hp, hi, hs, by_contra fun hr => hne (complete_result_of_notMem hc hr)⟩
  · exact absurd rfl hne

/-- Settles O31: a command is no write to an operand address, and a BUSY block only holds it. -/
theorem commandAcceptanceFrame : Obligations.CommandAcceptanceFrame := by
  intro s t c h
  have he := effect_of_exec h
  exact ⟨he.operand_eq_of_command, he.result_eq, he.scratch_eq, he.agenda_eq, he.control_eq_of_busy,
    he.held_eq_of_idle⟩

/-- Settles O32. -/
theorem completionFrame : Obligations.CompletionFrame := fun _ _ _ h =>
  ⟨complete_operand h, fun _ hr => complete_result_of_notMem h hr, complete_cur_port_agenda h⟩

end Sys2Proof.Machine
end

section
/-! PROOFS. The acceptance of a command (R44), its completion (R45), and the two together as a function of the operands
it reads (R42). -/

namespace Sys2Proof.Machine

/-- `dimErr` as the range of R142. -/
theorem dimErr_iff {v : Word} : dimErr v = true ↔ v.toNat < 1 ∨ v.toNat > 64 := by
  simp [dimErr]

/-- `modErr` of the effective modulus as the range of R143. -/
theorem modErr_qEff_iff {s : State} {qdef : Bool} : modErr (s.qEff qdef) = true ↔
    (if qdef then 65521 else s.q.toNat) < 2 ∨ (if qdef then 65521 else s.q.toNat) > 65521 := by
  simp [modErr, State.qEff_toNat]

/-- In IDLE a write of a command's word to `CMD` accepts it. -/
theorem exec_wr_cmd_of_idle {s : State} {w : Word} {c : Command} (hp : s.phase = .idle)
    (hd : decodeCommand w = .ok c) : exec (.wr cmdAddr w) s = .next (accept c (s.respond none)) := by
  rw [exec_wr_cmd hd, exec_toInstr (encodeCommand_of_decodeCommand hd).1, transact_of_idle hp]

/-- The three validated commands end with their parameter errors or start (R44, R144). -/
theorem accept_of_ne_xorall {c : Command} (hop : c.op ≠ .xorall) (s : State) :
    accept c s = if (dimErr s.nrows || modErr (s.qEff c.qdef)) = true
      then s.raise (statusError (dimErr s.nrows) (modErr (s.qEff c.qdef))) else s.start c := by
  obtain ⟨op, qdef⟩ := c
  cases op with
  | xorall => exact absurd rfl hop
  | _ => rfl

/-- The outcome of a validated command's word by its two error flags, each with its own bit of `STATUS` (R144). -/
theorem exec_wr_cmd_of_flags {s : State} {w : Word} {c : Command} {d m : Bool} (hp : s.phase = .idle)
    (hd : decodeCommand w = .ok c) (hop : c.op ≠ .xorall) (hdim : dimErr s.nrows = d)
    (hmod : modErr (s.qEff c.qdef) = m) : exec (.wr cmdAddr w) s = .next
      (if (d || m) = true then (s.respond none).raise (statusError d m) else (s.respond none).start c) := by
  subst hdim hmod
  rw [exec_wr_cmd_of_idle hp hd, accept_of_ne_xorall hop, State.respond_nrows, State.respond_qEff]

/-- Only the well-formed form of XORALL decodes (R92). -/
theorem eq_of_decodeCommand_xorall {w : Word} {c : Command} (hd : decodeCommand w = .ok c) (hop : c.op = .xorall) :
    c = ⟨.xorall, false⟩ := by
  have hc := (encodeCommand_of_decodeCommand hd).1
  obtain ⟨op, qdef⟩ := c
  subst hop
  cases qdef with
  | false => rfl
  | true => cases hc

/-- Settles O23: the four cases of a validated command are the values of its two error flags. -/
theorem commandAcceptance : Obligations.CommandAcceptance := by
  intro s w hp
  refine ⟨none, fun e hd => ?_, fun c hd hop => ?_, fun c hd hop => ?_⟩
  · exact (exec_wr_illegal hd s).trans (transact_of_idle hp _ _)
  · obtain rfl := eq_of_decodeCommand_xorall hd hop
    exact exec_wr_cmd_of_idle hp hd
  · dsimp only
    rw [← dimErr_iff, ← modErr_qEff_iff, Bool.not_eq_true, Bool.not_eq_true]
    exact ⟨fun ⟨h, h'⟩ => exec_wr_cmd_of_flags hp hd hop h h', fun ⟨h, h'⟩ => exec_wr_cmd_of_flags hp hd hop h h',
      fun ⟨h, h'⟩ => exec_wr_cmd_of_flags hp hd hop h h', fun ⟨h, h'⟩ => exec_wr_cmd_of_flags hp hd hop h h'⟩

/-- The completion of a packing command on valid parameters (R45). -/
theorem complete_of_params (hash : List Byte → Word) {s : State} {n : Dim} {q : Modulus} (hop : s.cur.op ≠ .xorall)
    (hn : dim? s.nrows = some n) (hq : modulus? (s.qEff s.cur.qdef) = some q) :
    ∃ scratch, complete hash s =
      .next ((s.setScratch scratch).setResult (pack (Elements hash s n q s.cur.op))).finish := by
  obtain ⟨t, ht⟩ := complete_of_valid hash (s := s) (.inr ⟨by rw [hn]; rfl, by rw [hq]; rfl⟩)
  obtain ⟨hx, -⟩ | ⟨-, n', q', scratch, hn', hq', rfl⟩ := complete_cases ht
  · exact absurd hx hop
  · rw [hn] at hn'
    rw [hq] at hq'
    cases hn'
    cases hq'
    exact ⟨scratch, ht⟩

/-- The completion of XORALL needs no parameter (R45). -/
theorem complete_of_xorall (hash : List Byte → Word) {s : State} (hop : s.cur.op = .xorall) :
    complete hash s = .next (s.setXr (combine s.aVec)).finish := by
  rw [complete, hop]
  rfl

/-- Settles O24. -/
theorem completionWritesTheResult : Obligations.CompletionWritesTheResult := by
  refine ⟨fun s hp => engineStep_of_busy hp, fun hash s n q _ hop hn hq => ?_, fun hash s _ hop => ?_⟩
  · rw [← State.qEff_toNat] at hq
    obtain ⟨scratch, ht⟩ := complete_of_params hash hop (dim?_eq_some.mpr hn) (modulus?_eq_some.mpr hq)
    refine ⟨_, ht, rfl, rfl, rfl, fun h => ?_, fun h => ?_, fun h => ?_⟩ <;> rw [h] <;> rfl
  · exact ⟨_, complete_of_xorall hash hop, rfl, rfl, rfl, rfl⟩

/-! ### A command run to its end -/

/-- A parameter error is no outcome OK. -/
theorem statusError_ne_statusOk {d m : Bool} (h : (d || m) = true) : statusError d m ≠ statusOk := by
  revert d m; decide

/-- XORALL run to its end: the XOR of `A0..A3` in `XR`. -/
theorem runCommand_of_xorall {s : State} {c : Command} (hw : c.wellFormed = true) (hp : s.phase = .idle)
    (hop : c.op = .xorall) :
    runCommand c s = .next (((s.respond none).start c).setXr (combine s.aVec)).finish := by
  obtain ⟨-, h⟩ | ⟨-, -, -, hne, -⟩ | ⟨hne, -⟩ := runCommand_cases hw hp
  · exact h
  · exact absurd hop hne
  · exact absurd hop hne

/-- A validated command run to its end on valid parameters: its packed elements in `R0..R3`. -/
theorem runCommand_of_valid {s : State} {c : Command} {n : Dim} {q : Modulus} (hw : c.wellFormed = true)
    (hp : s.phase = .idle) (hop : c.op ≠ .xorall) (hn : dim? s.nrows = some n)
    (hq : modulus? (s.qEff c.qdef) = some q) :
    ∃ scratch, runCommand c s = .next ((((s.respond none).start c).setScratch scratch).setResult
      (pack (Elements Config.hash s n q c.op))).finish := by
  have hx := exec_toInstr hw s
  rw [transact_of_idle hp, accept_of_valid (s := s.respond none) hn hq] at hx
  rw [runCommand_of_start hx]
  exact complete_of_params Config.hash (s := (s.respond none).start c) hop hn hq

/-- A validated command run to its end on an invalid parameter: its errors in `STATUS`. -/
theorem runCommand_of_invalid {s : State} {c : Command} (hw : c.wellFormed = true) (hp : s.phase = .idle)
    (hop : c.op ≠ .xorall) (he : (dimErr s.nrows || modErr (s.qEff c.qdef)) = true) :
    runCommand c s = .next ((s.respond none).raise (statusError (dimErr s.nrows) (modErr (s.qEff c.qdef)))) := by
  have hx := exec_toInstr hw s
  rw [transact_of_idle hp, accept_of_invalid (s := s.respond none) hop he] at hx
  simp only [runCommand, hx]
  exact engineStep_of_idle hp

/-! ### What a command reads (R41, R42) -/

/-- The two states agree on the operand registers the command reads. -/
def AgreeOnReads (c : Command) (s s' : State) : Prop := ∀ o, o ∈ c.reads → s.operand o = s'.operand o

section
variable {c : Command} {s s' : State}

/-- The operands every validated command reads (R41). -/
theorem mem_reads_of_ne_xorall (hop : c.op ≠ .xorall) {o : OperandReg} (ho : o ∈ [OperandReg.nrows, .step, .seed]) :
    o ∈ c.reads := by
  obtain ⟨op, qdef⟩ := c
  cases op with
  | xorall => exact absurd rfl hop
  | _ => simp only [Command.reads, List.mem_append, List.mem_cons] at ho ⊢; tauto

theorem AgreeOnReads.nrows_eq (h : AgreeOnReads c s s') (hop : c.op ≠ .xorall) : s.nrows = s'.nrows :=
  h .nrows (mem_reads_of_ne_xorall hop (by simp))

/-- `Q` is read just when it is the effective modulus (R43). -/
theorem AgreeOnReads.qEff_eq (h : AgreeOnReads c s s') (hop : c.op ≠ .xorall) : s.qEff c.qdef = s'.qEff c.qdef := by
  obtain ⟨op, qdef⟩ := c
  cases qdef with
  | true => rfl
  | false =>
    refine h .q ?_
    cases op <;> simp [Command.reads] at hop ⊢

theorem AgreeOnReads.combine_eq (h : AgreeOnReads c s s') (hop : c.op = .xorall ∨ c.op = .upd) :
    combine s.aVec = combine s'.aVec := by
  have hmem : ∀ o ∈ [OperandReg.a0, .a1, .a2, .a3], o ∈ c.reads := by
    rcases hop with hop | hop <;> simp [Command.reads, hop]
  have h0 : s.a0 = s'.a0 := h .a0 (hmem _ (by simp))
  have h1 : s.a1 = s'.a1 := h .a1 (hmem _ (by simp))
  have h2 : s.a2 = s'.a2 := h .a2 (hmem _ (by simp))
  have h3 : s.a3 = s'.a3 := h .a3 (hmem _ (by simp))
  simp only [combine, State.aVec, h0, h1, h2, h3]

/-- The elements a command packs are a function of the operands it reads. -/
theorem AgreeOnReads.elements_eq (h : AgreeOnReads c s s') (hop : c.op ≠ .xorall) (hash : List Byte → Word) (n : Dim)
    (q : Modulus) : Elements hash s n q c.op = Elements hash s' n q c.op := by
  have hstep : s.stepIdx = s'.stepIdx := h .step (mem_reads_of_ne_xorall hop (by simp))
  have hseed : s.seed = s'.seed := h .seed (mem_reads_of_ne_xorall hop (by simp))
  cases hc : c.op with
  | xorall => exact absurd hc hop
  | acc =>
    have hx : s.x = s'.x := h .x (by simp [Command.reads, hc])
    simp only [Elements, hx, hstep, hseed]
  | upd =>
    have hx : s.x = s'.x := h .x (by simp [Command.reads, hc])
    simp only [Elements, State.combined, h.combine_eq (.inr hc), hx, hstep, hseed]
  | drow =>
    have hrow : s.row = s'.row := h .row (by simp [Command.reads, hc])
    simp only [Elements, hrow, hstep, hseed]

end

/-- A packing command writes registers of the packed result only. -/
theorem result_eq_of_mem_writes {s s' : State} {c : Command} {r : ResultReg} (hop : c.op ≠ .xorall)
    (hv : s.rVec = s'.rVec) (hr : r ∈ c.writes) : s.result r = s'.result r := by
  obtain ⟨h0, h1, h2, h3⟩ := Container.mk.inj hv
  obtain ⟨op, qdef⟩ := c
  cases r with
  | r0 => exact h0
  | r1 => exact h1
  | r2 => exact h2
  | r3 => exact h3
  | xr => cases op <;> simp [Command.writes] at hop hr

/-- Settles O37: the branch taken, the error flags and the elements are functions of what the command reads. -/
theorem commandDependsOnlyOnWhatItReads : Obligations.CommandDependsOnlyOnWhatItReads := by
  intro c s s' hw hp hp' hagree
  replace hagree : AgreeOnReads c s s' := hagree
  by_cases hop : c.op = .xorall
  · refine ⟨_, _, runCommand_of_xorall hw hp hop, runCommand_of_xorall hw hp' hop, by simp, rfl, rfl,
      fun _ r hr => ?_⟩
    obtain rfl : r = .xr := by simpa [Command.writes, hop] using hr
    exact hagree.combine_eq (.inl hop)
  have hn := hagree.nrows_eq hop
  have hq := hagree.qEff_eq hop
  cases he : dimErr s.nrows || modErr (s.qEff c.qdef) with
  | true =>
    refine ⟨_, _, runCommand_of_invalid hw hp hop he, runCommand_of_invalid hw hp' hop (by rw [← hn, ← hq, he]),
      ?_, hp, hp', fun hok => ?_⟩
    · simp [hn, hq]
    · exact absurd hok (statusError_ne_statusOk he)
  | false =>
    rw [Bool.or_eq_false_iff, dimErr_eq, modErr_eq, Option.isNone_eq_false_iff, Option.isNone_eq_false_iff] at he
    obtain ⟨hdim, hmod⟩ := he
    obtain ⟨n, hdim⟩ := Option.isSome_iff_exists.mp hdim
    obtain ⟨q, hmod⟩ := Option.isSome_iff_exists.mp hmod
    obtain ⟨scratch, ht⟩ := runCommand_of_valid hw hp hop hdim hmod
    obtain ⟨scratch', ht'⟩ := runCommand_of_valid hw hp' hop (hn ▸ hdim) (hq ▸ hmod)
    refine ⟨_, _, ht, ht', by simp, rfl, rfl, fun _ r hr => result_eq_of_mem_writes hop ?_ hr⟩
    simp [hagree.elements_eq hop]

end Sys2Proof.Machine
end

section
/-! PROOFS. The sequencer (R39) computes the elements of R124 and R150: within a row its digest is that of the block
the current column lies in, its sum is the selected sum reduced, and each store adds one element to `Y`. -/

namespace Sys2Proof.Machine

/-- What holds at first and is kept by each step of a loop over `0, …, n - 1` holds after it. -/
theorem foldl_range_induction {α : Type} {P : Nat → α → Prop} {f : α → Nat → α} {a : α} (h0 : P 0 a) :
    ∀ n : Nat, (∀ k b, k < n → P k b → P (k + 1) (f b k)) → P n ((List.range n).foldl f a)
  | 0, _ => h0
  | n + 1, hstep => by
    rw [List.range_succ, List.foldl_concat]
    exact hstep n _ (by omega) (foldl_range_induction h0 n fun k b hk => hstep k b (by omega))

variable {hash : List Byte → Word} {rs seed stepIdx row x : Word} {n : Dim} {q : Modulus} {k : Nat} {t : Scratch}

/-! ### One column -/

section
variable (hash : List Byte → Word) (t : Scratch) (k : Nat) (x : Word) (q : Modulus)

@[simp] theorem Scratch.enterColumn_rowSeed : (t.enterColumn hash k).rowSeed = t.rowSeed := by
  unfold enterColumn; split <;> rfl

@[simp] theorem Scratch.enterColumn_sum : (t.enterColumn hash k).sum = t.sum := by
  unfold enterColumn; split <;> rfl

@[simp] theorem Scratch.enterColumn_y : (t.enterColumn hash k).y = t.y := by
  unfold enterColumn; split <;> rfl

@[simp] theorem Scratch.enterColumn_c : (t.enterColumn hash k).c = BitVec.ofNat 7 k := by
  unfold enterColumn; split <;> rfl

@[simp] theorem Scratch.addColumn_rowSeed : (t.addColumn x q).rowSeed = t.rowSeed := by
  unfold addColumn; split <;> rfl

@[simp] theorem Scratch.addColumn_digest : (t.addColumn x q).digest = t.digest := by
  unfold addColumn; split <;> rfl

@[simp] theorem Scratch.addColumn_y : (t.addColumn x q).y = t.y := by
  unfold addColumn; split <;> rfl

end

/-- Before column `k` of the row with seed `rs`: the digest is that of the block of column `k`, unless a block begins
there. -/
def Scratch.InRow (hash : List Byte → Word) (rs : Word) (k : Nat) (t : Scratch) : Prop :=
  t.rowSeed = rs ∧ (k % 16 ≠ 0 → t.digest = blockDigest hash rs (k / 16))

theorem Scratch.inRow_enterRow (t : Scratch) (r : Nat) :
    (t.enterRow hash seed stepIdx row r).InRow hash (Machine.rowSeed hash seed stepIdx row) 0 :=
  ⟨rfl, fun h => absurd rfl h⟩

/-- The digest is the current block's: just computed when the block begins, kept otherwise. -/
theorem Scratch.InRow.enterColumn_digest (h : t.InRow hash rs k) :
    (t.enterColumn hash k).digest = blockDigest hash rs (k / 16) := by
  obtain ⟨rfl, hdigest⟩ := h
  unfold enterColumn
  split
  · rfl
  · exact hdigest ‹_›

theorem Scratch.InRow.enterColumn (h : t.InRow hash rs k) : (t.enterColumn hash k).InRow hash rs (k + 1) := by
  refine ⟨(t.enterColumn_rowSeed hash k).trans h.1, fun hk => ?_⟩
  rw [h.enterColumn_digest, show (k + 1) / 16 = k / 16 by omega]

theorem Scratch.InRow.addColumn (h : t.InRow hash rs k) : (t.addColumn x q).InRow hash rs k := by
  simpa [InRow] using h

theorem Scratch.InRow.store (h : t.InRow hash rs k) (i v : Nat) : (t.store i v).InRow hash rs k := h

/-- The coefficient read from the digest is that of the column (R124). -/
theorem Scratch.InRow.coef_enterColumn (h : t.InRow hash (Machine.rowSeed hash seed stepIdx row) k) (hk : k < 128) :
    (t.enterColumn hash k).coef q = Machine.coef hash seed stepIdx row k q := by
  simp [Scratch.coef, Machine.coef, h.enterColumn_digest, Nat.mod_eq_of_lt hk]

theorem Scratch.coef_lt (t : Scratch) (q : Modulus) : t.coef q < q.val :=
  Nat.mod_lt _ (by have := q.two_le; omega)

/-- One conditional subtraction reduces a sum of two numbers below `q` (R152). -/
theorem condSub_add_eq_mod {q a b : Nat} (ha : a < q) (hb : b < q) : condSub q (a + b) = (a + b) % q := by
  unfold condSub
  split
  · rw [Nat.mod_eq_sub_mod ‹_›, Nat.mod_eq_of_lt (by omega)]
  · rw [Nat.mod_eq_of_lt (by omega)]

/-- In 17 bits neither the addition nor the subtraction of R152 overflows. -/
theorem condSub17_toNat {q a b : Nat} {s : BitVec 17} (hq : q ≤ 65521) (hs : s.toNat = a) (ha : a < q) (hb : b < q) :
    (if BitVec.ofNat 17 q ≤ s + BitVec.ofNat 17 b then s + BitVec.ofNat 17 b - BitVec.ofNat 17 q
      else s + BitVec.ofNat 17 b).toNat = condSub q (a + b) := by
  have hadd : (s + BitVec.ofNat 17 b).toNat = a + b := by
    simp only [BitVec.toNat_add, BitVec.toNat_ofNat, hs]; omega
  have hmod : (BitVec.ofNat 17 q).toNat = q := by
    simp only [BitVec.toNat_ofNat]; omega
  simp only [BitVec.le_def, hadd, hmod, condSub]
  split
  · rw [BitVec.toNat_sub_of_le (by rw [BitVec.le_def]; omega), hadd, hmod]
  · exact hadd

/-- The current column is added to a reduced sum when its bit of `x` is 1, and the sum reduced (R152). -/
theorem Scratch.addColumn_sum_toNat (hs : t.sum.toNat < q.val) (x : Word) :
    (t.addColumn x q).sum.toNat = (t.sum.toNat + if x.getLsbD t.c.toNat then t.coef q else 0) % q.val := by
  unfold addColumn
  split
  · rw [← condSub_add_eq_mod hs (t.coef_lt q)]
    exact condSub17_toNat q.le rfl hs (t.coef_lt q)
  · rw [Nat.add_zero, Nat.mod_eq_of_lt hs]

/-! ### One row -/

theorem selectedSum_concat (x : Word) (a : Nat) : ∀ (c : Nat) (as : List Nat),
    selectedSum x c (as ++ [a]) = selectedSum x c as + if x.getLsbD (c + as.length) then a else 0
  | c, [] => by simp [selectedSum]
  | c, b :: bs => by
    rw [List.cons_append, selectedSum, selectedSum, selectedSum_concat x a (c + 1) bs, List.length_cons,
      Nat.add_assoc, Nat.add_assoc, Nat.add_comm 1]

/-- The sum of the row's first `k` selected coefficients. -/
def partialSum (hash : List Byte → Word) (x seed stepIdx row : Word) (q : Modulus) (k : Nat) : Nat :=
  selectedSum x 0 ((List.range k).map fun c => coef hash seed stepIdx row c q)

theorem partialSum_succ (hash : List Byte → Word) (x seed stepIdx row : Word) (q : Modulus) (k : Nat) :
    partialSum hash x seed stepIdx row q (k + 1) =
      partialSum hash x seed stepIdx row q k + if x.getLsbD k then coef hash seed stepIdx row k q else 0 := by
  simp [partialSum, List.range_succ, selectedSum_concat]

/-- After the first `k` columns of a row of ACC or UPD: the sum is reduced, and `Y` is still `y`. -/
structure Scratch.SummedTo (hash : List Byte → Word) (x seed stepIdx row : Word) (q : Modulus) (y : Vector Lane 64)
    (k : Nat) (t : Scratch) : Prop where
  inRow : t.InRow hash (Machine.rowSeed hash seed stepIdx row) k
  sum : t.sum.toNat = partialSum hash x seed stepIdx row q k % q.val
  y : t.y = y

theorem Scratch.summedTo_enterRow (t : Scratch) (r : Nat) :
    (t.enterRow hash seed stepIdx row r).SummedTo hash x seed stepIdx row q t.y 0 :=
  ⟨t.inRow_enterRow r, (Nat.zero_mod _).symm, rfl⟩

theorem Scratch.SummedTo.addColumn {y : Vector Lane 64} (h : t.SummedTo hash x seed stepIdx row q y k) (hk : k < 128) :
    ((t.enterColumn hash k).addColumn x q).SummedTo hash x seed stepIdx row q y (k + 1) where
  inRow := h.inRow.enterColumn.addColumn
  y := by simp [h.y]
  sum := by
    have hlt : (t.enterColumn hash k).sum.toNat < q.val := by
      rw [enterColumn_sum, h.sum]
      exact Nat.mod_lt _ (by have := q.two_le; omega)
    have hc : (BitVec.ofNat 7 k).toNat = k := Nat.mod_eq_of_lt hk
    rw [addColumn_sum_toNat hlt, enterColumn_sum, enterColumn_c, hc, h.sum, h.inRow.coef_enterColumn hk, partialSum_succ,
      Nat.mod_add_mod]

/-- A row of ACC or UPD leaves its element in the sum and stores it. -/
theorem Scratch.accumulateRow_sum_y (t : Scratch) (r : Nat) :
    (t.accumulateRow hash x stepIdx n seed q r).sum.toNat = accumulateAt hash x stepIdx n seed q r ∧
    (t.accumulateRow hash x stepIdx n seed q r).y = (t.store r (accumulateAt hash x stepIdx n seed q r)).y := by
  have hrow := foldl_range_induction
    (t.summedTo_enterRow (hash := hash) (x := x) (seed := seed) (stepIdx := stepIdx) (q := q)
      (row := BitVec.ofNat 256 r) r) n.val
    fun _ _ hk h => h.addColumn (by have := n.le; omega)
  exact ⟨hrow.sum, congrArg₂ (fun y v => y.setIfInBounds r (BitVec.ofNat 16 v)) hrow.y hrow.sum⟩

/-! ### The elements in `Y` -/

/-- The first `k` elements of `Y` are those of `f`. -/
def Scratch.Filled (f : Nat → Nat) (k : Nat) (t : Scratch) : Prop :=
  ∀ i, i < k → t.y[i]? = some (BitVec.ofNat 16 (f i))

theorem Scratch.Filled.store {f : Nat → Nat} (h : t.Filled f k) (hk : k < 64) : (t.store k (f k)).Filled f (k + 1) := by
  intro i hi
  rw [Scratch.store, Vector.getElem?_setIfInBounds]
  split
  · subst i; rfl
  · exact h i (by omega)

theorem Scratch.Filled.getElem?_map {f : Nat → Nat} {m i : Nat} (h : t.Filled f m) (hi : i < m) (hf : f i < 2 ^ 16) :
    t.y[i]?.map BitVec.toNat = ((List.range m).map f)[i]? := by
  simpa [h i hi, hi] using hf

/-- The rows of ACC or UPD, one by one. -/
theorem Scratch.accumulate_filled (t : Scratch) :
    (t.accumulate hash x stepIdx n seed q).Filled (accumulateAt hash x stepIdx n seed q) n.val := by
  refine foldl_range_induction (fun i hi => absurd hi (Nat.not_lt_zero i)) n.val fun r u hr h => ?_
  have hy := (u.accumulateRow_sum_y (hash := hash) (x := x) (stepIdx := stepIdx) (n := n) (seed := seed) (q := q) r).2
  intro i hi
  rw [hy]
  exact h.store (by have := n.le; omega) i hi

theorem accumulateAt_lt (hash : List Byte → Word) (x stepIdx : Word) (n : Dim) (seed : Word) (q : Modulus) (r : Nat) :
    accumulateAt hash x stepIdx n seed q r < q.val :=
  Nat.mod_lt _ (by have := q.two_le; omega)

theorem coef_lt (hash : List Byte → Word) (seed stepIdx row : Word) (c : Nat) (q : Modulus) :
    coef hash seed stepIdx row c q < q.val :=
  Nat.mod_lt _ (by have := q.two_le; omega)

/-- There is a last row, and its sum is reduced. -/
theorem Scratch.accumulate_sum_lt (t : Scratch) : (t.accumulate hash x stepIdx n seed q).sum.toNat < q.val := by
  obtain ⟨m, hm⟩ : ∃ m, n.val = m + 1 := ⟨n.val - 1, by have := n.pos; omega⟩
  rw [accumulate, hm, List.range_succ, List.foldl_concat, (accumulateRow_sum_y _ m).1]
  exact accumulateAt_lt hash x stepIdx n seed q m

/-- After the first `k` columns of DROW their coefficients are in `Y`. -/
structure Scratch.DerivedTo (hash : List Byte → Word) (seed stepIdx row : Word) (q : Modulus) (k : Nat) (t : Scratch) :
    Prop where
  inRow : t.InRow hash (Machine.rowSeed hash seed stepIdx row) k
  filled : t.Filled (fun c => Machine.coef hash seed stepIdx row c q) k

theorem Scratch.derivedTo_enterRow (t : Scratch) (r : Nat) :
    (t.enterRow hash seed stepIdx row r).DerivedTo hash seed stepIdx row q 0 :=
  ⟨t.inRow_enterRow r, fun i hi => absurd hi (Nat.not_lt_zero i)⟩

theorem Scratch.DerivedTo.storeColumn (h : t.DerivedTo hash seed stepIdx row q k) (hk : k < 64) :
    ((t.enterColumn hash k).store k ((t.enterColumn hash k).coef q)).DerivedTo hash seed stepIdx row q (k + 1) where
  inRow := h.inRow.enterColumn.store _ _
  filled := by
    have hfilled : (t.enterColumn hash k).Filled (fun c => Machine.coef hash seed stepIdx row c q) k := by
      simpa [Filled] using h.filled
    rw [h.inRow.coef_enterColumn (by omega)]
    exact hfilled.store hk

theorem Scratch.derive_filled (t : Scratch) : (t.derive hash seed stepIdx row n q).Filled
    (fun c => Machine.coef hash seed stepIdx row c q) n.val :=
  (foldl_range_induction (t.derivedTo_enterRow (q := q) 0) n.val
    fun _ _ hk h => h.storeColumn (Nat.lt_of_lt_of_le hk n.le)).filled

/-- Settles O56: `Y` is filled row by row, or column by column, with elements below `q` and so within 16 bits. -/
theorem sequencerComputesTheElements : Obligations.SequencerComputesTheElements := by
  intro hash x stepIdx seed row n q t
  have hq := q.le
  refine ⟨fun r hr => ?_, t.accumulate_sum_lt, fun c hc => ?_⟩
  · exact t.accumulate_filled.getElem?_map hr ((accumulateAt_lt hash x stepIdx n seed q r).trans (by omega))
  · exact t.derive_filled.getElem?_map hc ((coef_lt hash seed stepIdx row c q).trans (by omega))

end Sys2Proof.Machine
end

section
/-! PROOFS. Which move a step makes when its turn is known (R33, R45, R65, R240), and the state after reset (R46). -/

namespace Sys2Proof.Machine

/-! ### The Host's offer -/

theorem step_of_offer {s : State} {t : Request} {rest : List Turn} (hh : s.held = none)
    (ha : s.agenda = .host t :: rest) : step s = exec t.toInstr (s.setAgenda rest) := by
  simp only [step, takeTurn, freeTurn, hh, ha, offer]

theorem decode_port_toBits (t : Request) : decode (.port t.toBits) = .ok t.toInstr := by
  rw [decode, Request.ofBits_toBits]

/-- A command word that decodes, offered as the data of a `CMD` write, is the command (R99). -/
theorem exec_cmdWrite_of_decode {w : Word} {i : Instr} (h : decode (.cw w) = .ok i) (s : State) :
    exec (cmdWrite w).toInstr s = exec i s := by
  cases hd : decodeCommand w with
  | ok c =>
    simp only [decode, hd, Except.map, Except.ok.injEq] at h
    subst h
    exact exec_wr_cmd hd s
  | error e => simp [decode, hd, Except.map] at h

/-- Settles O7. -/
theorem stepRunsTheOfferedInstruction : Obligations.StepRunsTheOfferedInstruction := by
  intro s t rest hh ha
  refine ⟨fun i hi => ?_, fun w i ht hi => ?_⟩
  · obtain rfl : t.toInstr = i := by simpa [decode_port_toBits] using hi
    exact step_of_offer hh ha
  · subst ht
    exact (step_of_offer hh ha).trans (exec_cmdWrite_of_decode hi _)

/-! ### The Engine's turn -/

theorem heldTurn_of_busy {s : State} (t : Request) (hp : s.phase = .busy) (hne : s.agenda.head? ≠ some .engine) :
    heldTurn t s = complete Config.hash s := by
  simp only [heldTurn, hp]
  split
  · rename_i ha; exact absurd (by rw [ha]; rfl) hne
  · exact engineStep_of_busy hp

theorem step_of_held {s : State} {t : Request} (hh : s.held = some t) (hne : s.agenda.head? ≠ some .reset) :
    step s = heldTurn t s := by
  unfold step takeTurn
  split
  · rename_i ha; exact absurd (by rw [ha]; rfl) hne
  · simp only [hh]

/-- With nothing left on the agenda a BUSY block completes (R249). -/
theorem step_of_busy_nil {s : State} (hp : s.phase = .busy) (hh : s.held = none) (ha : s.agenda = []) :
    step s = complete Config.hash s := by
  simp only [step, takeTurn, freeTurn, hh, ha]
  exact engineStep_of_busy hp

/-- An Engine turn is used up by the completion, with a transaction outstanding or not. -/
theorem step_of_busy_engine {s : State} {rest : List Turn} (hp : s.phase = .busy) (ha : s.agenda = .engine :: rest) :
    step s = complete Config.hash (s.setAgenda rest) := by
  have hstep : step s = engineStep (s.setAgenda rest) := by
    cases hh : s.held <;> simp only [step, takeTurn, heldTurn, freeTurn, hh, hp, ha]
  exact hstep.trans (engineStep_of_busy hp)

/-- Settles O11. -/
theorem busyStepCompletesTheCommand : Obligations.BusyStepCompletesTheCommand := by
  intro s hp
  exact ⟨fun t hh hreset hengine => (step_of_held hh hreset).trans (heldTurn_of_busy t hp hengine),
    step_of_busy_nil hp, fun rest => step_of_busy_engine hp⟩

/-! ### Reset -/

theorem step_of_reset {s : State} {rest : List Turn} (ha : s.agenda = .reset :: rest) :
    step s = .next (s.setAgenda rest).resetEvent := by
  simp only [step, takeTurn, ha]

/-- Settles O13. -/
theorem resetTakesTheResetValues : Obligations.ResetTakesTheResetValues := by
  intro s rest ha
  refine ⟨_, step_of_reset ha, ?_⟩
  simp

theorem regRead_reset (addr : RegAddr) : State.reset.regRead addr = if addr = 0x03 then 65521 else 0 := by
  revert addr; decide

/-- Settles O15. -/
theorem everyAddressReadsItsResetValue : Obligations.EveryAddressReadsItsResetValue := by
  intro addr
  rw [exec_rd, transact_of_idle rfl, ← regRead_reset]
  rfl

end Sys2Proof.Machine
end

section
/-! PROOFS. The register space: which address names what (R62), what a read returns (R66, R68), what a write does (R67,
R69), and what both leave unchanged. -/

namespace Sys2Proof.Machine

variable {s t : State} {addr : RegAddr}

/-! ### The address map (R62) -/

theorem regAt_eq_cmd : regAt addr = .cmd ↔ addr = cmdAddr := by
  revert addr; decide

theorem regAt_eq_status : regAt addr = .status ↔ addr = statusAddr := by
  revert addr; decide

theorem regAt_eq_reserved : regAt addr = .reserved ↔ 0x11 ≤ addr.toNat := by
  revert addr; decide

/-- Settles O20. -/
theorem addressMapNamesEachRegisterOnce : Obligations.AddressMapNamesEachRegisterOnce :=
  ⟨fun _ _ => regAt_eq_operand, fun _ _ => regAt_eq_result, fun _ => regAt_eq_cmd, fun _ => regAt_eq_status,
    fun _ => regAt_eq_reserved⟩

/-! ### Reads -/

/-- The registers in the order of their addresses (R62), `CMD` reading 0. -/
def State.registers (s : State) : List Word :=
  [0, s.status, s.nrows, s.q, s.stepIdx, s.seed, s.x, s.row, s.a0, s.a1, s.a2, s.a3, s.r0, s.r1, s.r2, s.r3, s.xr]

theorem State.regRead_eq_getD (s : State) (addr : RegAddr) : s.regRead addr = s.registers.getD addr.toNat 0 := by
  unfold State.regRead
  cases h : regAt addr with
  | cmd => obtain rfl := regAt_eq_cmd.mp h; rfl
  | status => obtain rfl := regAt_eq_status.mp h; rfl
  | operand o => obtain rfl := regAt_eq_operand.mp h; cases o <;> rfl
  | result r => obtain rfl := regAt_eq_result.mp h; cases r <;> rfl
  | reserved => exact (List.getD_eq_default _ _ (regAt_eq_reserved.mp h)).symm

/-- A read that is not held returns the register at its address (R64, R66). -/
theorem exec_rd_of_accepted (h : s.phase = .idle ∨ addr = statusAddr) :
    exec (.rd addr) s = .next (s.respond (some (s.regRead addr))) := by
  have ha : s.accepts ⟨false, addr, 0⟩ = true := by simpa [State.accepts] using h
  rw [exec_rd, transact, if_pos ha]
  rfl

/-- Settles O17. -/
theorem readReturnsTheRegisterAtItsAddress : Obligations.ReadReturnsTheRegisterAtItsAddress := by
  intro s addr h
  rw [exec_rd_of_accepted h, State.regRead_eq_getD]
  rfl

/-! ### Writes -/

theorem OperandReg.addr_range (o : OperandReg) : 2 ≤ o.addr.toNat ∧ o.addr.toNat < 0x0C := by
  cases o <;> decide

/-- Settles O18. -/
theorem operandWriteStoresTheWord : Obligations.OperandWriteStoresTheWord := by
  intro s o v hp
  refine ⟨(s.respond none).setOperand o v, ?_, State.setOperand_operand_same _ o v,
    fun o' => State.setOperand_operand_ne _ o o' v, ?_⟩
  · rw [exec_wr_reg o.addr_ne_cmd, transact_of_idle hp, State.regWrite_operand_addr]
  · simp

/-- Settles O19: no operand register and not `CMD` stands at these addresses. -/
theorem otherWritesAreIgnored : Obligations.OtherWritesAreIgnored := by
  intro s addr v hp ha
  have hcmd : addr ≠ cmdAddr := by
    rintro rfl; revert ha; decide
  refine ⟨none, ?_⟩
  rw [exec_wr_reg hcmd, transact_of_idle hp]
  obtain ⟨o, rfl, -⟩ | ⟨-, hw⟩ := (s.respond none).regWrite_cases addr v
  · have ho := o.addr_range
    rcases ha with ha | ha
    · exact absurd ha o.addr_ne_status
    · omega
  · rw [hw]
    rfl

/-! ### Frames -/

/-- A write outside `CMD` leaves `STATUS`, the phase and the command alone. -/
theorem exec_wr_control_of_ne_cmd {v : Word} (ha : addr ≠ cmdAddr) (h : exec (.wr addr v) s = .next t) :
    t.status = s.status ∧ t.phase = s.phase ∧ t.cur = s.cur := by
  rw [exec_wr_reg ha] at h
  obtain ⟨-, hx⟩ | ⟨-, -, hx⟩ := transact_cases ⟨true, addr, v⟩ (fun s => s.regWrite addr v) s
  · cases hx.symm.trans h
    obtain ⟨o, -, hw⟩ | ⟨-, hw⟩ := (s.respond none).regWrite_cases addr v <;> simp [hw]
  · cases hx.symm.trans h
    simp

/-- A write changes no operand register but the one at its address. -/
theorem Effect.operand_eq_of_wr {v : Word} (h : Effect (.wr addr v) s t) {o : OperandReg} (ho : o.addr ≠ addr) :
    t.operand o = s.operand o := by
  by_contra hne
  obtain ⟨-, hi⟩ := h.write_of_operand_ne hne
  cases hi
  exact ho rfl

theorem exec_rd_frame (h : exec (.rd addr) s = .next t) :
    SameRegisters t s ∧ t.cur = s.cur ∧ t.scratch = s.scratch ∧ t.agenda = s.agenda := by
  rw [exec_rd] at h
  obtain ⟨-, hx⟩ | ⟨-, -, hx⟩ :=
    transact_cases ⟨false, addr, 0⟩ (fun s => s.respond (some (s.regRead addr))) s
  all_goals
    cases hx.symm.trans h
    simp [SameRegisters]

/-- Settles O33. -/
theorem transactionFrame : Obligations.TransactionFrame := by
  refine ⟨fun s t addr h => exec_rd_frame h, fun s t addr v h => ?_⟩
  have he := effect_of_exec h
  exact ⟨he.result_eq, fun o => he.operand_eq_of_wr, he.scratch_eq, he.agenda_eq,
    fun ha => exec_wr_control_of_ne_cmd ha h⟩

end Sys2Proof.Machine
end

section
/-! PROOFS. Holding (R64): what a BUSY block does with each form of a transaction, and when a held one is performed. -/

namespace Sys2Proof.Machine

variable {s : State}

/-- `XORALL` with `QDEF` = 1 is the one ill-formed command (R93). -/
theorem Command.eq_of_wellFormed_eq_false {c : Command} (hw : c.wellFormed = false) : c = ⟨.xorall, true⟩ := by
  obtain ⟨op, qdef⟩ := c
  cases op with
  | xorall => cases qdef with
    | true => rfl
    | false => cases hw
  | _ => cases hw

/-- A BUSY block holds a command in every form, the ill-formed one too, as the write of its word to `CMD`. -/
theorem exec_toInstr_of_busy (hp : s.phase = .busy) (c : Command) :
    exec c.toInstr s = .next (s.hold (cmdWrite (encodeCommand c))) := by
  cases hw : c.wellFormed with
  | true => rw [exec_toInstr hw]; exact transact_of_busy hp (.inl rfl) _
  | false =>
    obtain rfl := Command.eq_of_wellFormed_eq_false hw
    exact (exec_xorall_true s).trans (transact_of_busy hp (.inl rfl) _)

theorem exec_rd_of_busy (hp : s.phase = .busy) {addr : RegAddr} (ha : addr ≠ statusAddr) :
    exec (.rd addr) s = .next (s.hold ⟨false, addr, 0⟩) :=
  (exec_rd addr s).trans (transact_of_busy hp (.inr ha) _)

/-- A BUSY block holds every write, to `CMD` or elsewhere. -/
theorem exec_wr_of_busy (hp : s.phase = .busy) (addr : RegAddr) (v : Word) :
    exec (.wr addr v) s = .next (s.hold ⟨true, addr, v⟩) := by
  by_cases ha : addr = cmdAddr
  · subst ha
    cases hd : decodeCommand v with
    | ok c =>
      rw [exec_wr_cmd hd, exec_toInstr_of_busy hp, (encodeCommand_of_decodeCommand hd).2]
      rfl
    | error e => rw [exec_wr_illegal hd]; exact transact_of_busy hp (.inl rfl) _
  · rw [exec_wr_reg ha]; exact transact_of_busy hp (.inl rfl) _

theorem heldTurn_of_idle (hp : s.phase = .idle) (t : Request) : heldTurn t s = exec t.toInstr s.release := by
  simp only [heldTurn, hp, offer]

/-- Settles O9. -/
theorem transactionsAreHeldWhileBusy : Obligations.TransactionsAreHeldWhileBusy := by
  refine ⟨fun s t hp => ?_, fun s _ => exec_rd_of_accepted (.inr rfl), fun s addr hp => exec_rd_of_busy hp,
    fun s addr v hp => exec_wr_of_busy hp addr v, fun s c hp => exec_toInstr_of_busy hp c,
    fun s t hh hp hr => (step_of_held hh hr).trans (heldTurn_of_idle hp t)⟩
  obtain ⟨u, hu, he⟩ := exec_effect t.toInstr s
  exact ⟨u, hu, he.held_eq_of_idle hp⟩

end Sys2Proof.Machine
end

section
/-! PROOFS. A command run again (R75): its first run leaves the operands it reads as they were, so that the second is
the same function of them (R42), and each run leaves alone what it does not write. -/

namespace Sys2Proof.Machine

variable {s t : State} {c : Command}

/-- A command run to its end leaves the block IDLE with its operands, and, but for what an outcome OK writes, its
results. -/
theorem runCommand_frame (hw : c.wellFormed = true) (hp : s.phase = .idle) (h : runCommand c s = .next t) :
    t.phase = .idle ∧ (∀ o, t.operand o = s.operand o) ∧
    ∀ r, (t.status = statusOk → r ∉ c.writes) → t.result r = s.result r := by
  obtain ⟨hop, hx⟩ | ⟨n, q, scratch, hop, -, -, hx⟩ | ⟨-, -, hx⟩ := runCommand_cases hw hp
  · cases hx.symm.trans h
    exact ⟨rfl, by simp, fun r hr => by simp [State.setXr_result_of_notMem _ _ hop (hr rfl)]⟩
  · cases hx.symm.trans h
    exact ⟨rfl, by simp, fun r hr => by simp [State.setResult_result_of_notMem _ _ hop (hr rfl)]⟩
  · cases hx.symm.trans h
    exact ⟨hp, fun _ => rfl, fun _ _ => rfl⟩

/-- Settles O38: the results an OK outcome writes are those of the same operands, and the others are kept. -/
theorem repeatedCommandGivesTheSameResult : Obligations.RepeatedCommandGivesTheSameResult := by
  intro c s t hw hp h
  obtain ⟨hpt, hoperand, -⟩ := runCommand_frame hw hp h
  obtain ⟨t', u, ht', hu, hstatus, -, -, hresult⟩ :=
    commandDependsOnlyOnWhatItReads c s t hw hp hpt fun o _ => (hoperand o).symm
  cases ht'.symm.trans h
  obtain ⟨-, -, hframe⟩ := runCommand_frame hw hpt hu
  refine ⟨u, hu, hstatus.symm, fun r => ?_⟩
  by_cases hr : t.status = statusOk ∧ r ∈ c.writes
  · exact (hresult hr.1 r hr.2).symm
  · exact hframe r fun hok hmem => hr ⟨hstatus.trans hok, hmem⟩

end Sys2Proof.Machine
end

section
/-! PROOFS. The decoder and the encoder: the round trip of R91, R92 and R98, and which numbers decode, told by the
fields of R91 and of R98 as digits of the number. -/

namespace Sys2Proof

/-! ### Round trips -/

/-- Settles O1, one constructor at a time. -/
theorem decodeEncodeReturnsTheInstruction : Obligations.DecodeEncodeReturnsTheInstruction := by
  intro i hi
  cases i with
  | acc qdef => exact Laws.DecodeEncode.acc qdef hi
  | upd qdef => exact Laws.DecodeEncode.upd qdef hi
  | xorall qdef => exact Laws.DecodeEncode.xorall qdef hi
  | drow qdef => exact Laws.DecodeEncode.drow qdef hi
  | rd addr => exact Laws.DecodeEncode.rd addr hi
  | wr addr data => exact Laws.DecodeEncode.wr addr data hi

/-- The words that decode are those of the well-formed commands, each its own command's. -/
theorem decodeCommand_eq_ok_iff {w : Word} {c : Command} :
    decodeCommand w = .ok c ↔ c.wellFormed = true ∧ encodeCommand c = w := by
  refine ⟨encodeCommand_of_decodeCommand, ?_⟩
  rintro ⟨hc, rfl⟩
  exact decodeCommand_encodeCommand c hc

/-- Settles O6. -/
theorem decodedCommandEncodesBack : Obligations.DecodedCommandEncodesBack := fun _ _ h =>
  (decodeCommand_eq_ok_iff.mp h).symm

/-- Settles O2: the seven words are the encodings of the seven well-formed commands. -/
theorem commandWordsAreExactlySeven : Obligations.CommandWordsAreExactlySeven := by
  intro w c
  rw [decodeCommand_eq_ok_iff, eq_comm (b := w)]
  obtain ⟨op, qdef⟩ := c
  cases op <;> cases qdef <;> simp [Command.wellFormed, encodeCommand, Op.code]

/-! ### The fields of a command word as digits of the number (R91) -/

theorem opField_toNat (w : Word) : (opField w).toNat = w.toNat % 16 := by
  simp [opField]

theorem z1Field_ne_zero_iff {w : Word} : z1Field w ≠ 0 ↔ w.toNat / 16 % 16 ≠ 0 := by
  simp [z1Field, ← BitVec.toNat_inj, Nat.shiftRight_eq_div_pow]

theorem qdefField_eq_true_iff {w : Word} : qdefField w = true ↔ w.toNat / 256 % 2 = 1 := by
  simp [qdefField, BitVec.getLsbD, Nat.testBit_eq_decide_div_mod_eq]

theorem z2Field_toNat (w : Word) : (z2Field w).toNat = w.toNat / 512 := by
  rw [z2Field, BitVec.extractLsb'_toNat, Nat.shiftRight_eq_div_pow]
  exact Nat.mod_eq_of_lt (by omega)

theorem z2Field_ne_zero_iff {w : Word} : z2Field w ≠ 0 ↔ w.toNat / 512 ≠ 0 := by
  rw [← z2Field_toNat, ne_eq, ne_eq, ← BitVec.toNat_inj]
  rfl

/-- The illegal words by their fields: a reserved bit, a reserved opcode, or XORALL with a modulus (R96). -/
theorem decodeCommand_eq_error_iff {w : Word} : (∃ e, decodeCommand w = .error e) ↔
    z2Field w ≠ 0 ∨ z1Field w ≠ 0 ∨ (opField w).toNat = 0 ∨ 5 ≤ (opField w).toNat ∨
      ((opField w).toNat = 3 ∧ qdefField w = true) := by
  rw [← or_assoc, decodeCommand]
  by_cases hz : z2Field w ≠ 0 ∨ z1Field w ≠ 0
  · rw [if_pos hz]
    exact iff_of_true ⟨_, rfl⟩ (.inl hz)
  · rw [if_neg hz, or_iff_right hz]
    generalize (opField w).toNat = op, qdefField w = qdef
    match op, qdef with
    | 0, _ => simp
    | 1, _ => simp
    | 2, _ => simp
    | 3, false => simp
    | 3, true => simp
    | 4, _ => simp
    | op + 5, _ => simp

/-! ### The fields of a port request (R98) -/

theorem Request.ofBits_eq (p : BitVec 262) : Request.ofBits p =
    ⟨p.getLsbD 261, BitVec.ofNat 5 (p.toNat / 2 ^ 256), BitVec.ofNat 256 p.toNat⟩ := by
  simp only [Request.ofBits, BitVec.extractLsb', Nat.shiftRight_eq_div_pow, Nat.pow_zero, Nat.div_one]

/-- Settles O4: bit 261 alone selects the transaction. -/
theorem portRequestFieldsDecode : Obligations.PortRequestFieldsDecode := by
  refine ⟨fun p hp => ?_, fun p hp => ?_⟩
  · rw [decode, Request.ofBits_eq, hp]
    rfl
  · rw [decode, Request.ofBits_eq, hp]
    rfl

/-- Settles O5, by computing the decoder on the eight closed words. -/
theorem writtenOutWordsDecode : Obligations.WrittenOutWordsDecode := by
  unfold Obligations.WrittenOutWordsDecode
  decide +kernel

end Sys2Proof
end

section
/-! PROOFS. A command word at the block: it is delivered as the data of a write to `CMD` (R99), offered as the Host's
next transaction, and does nothing but set `STATUS` when it is illegal (R96). -/

namespace Sys2Proof.Machine

/-- Settles O3: the fields of R91 read as digits of the number, and the acceptance of an illegal word in IDLE. -/
theorem illegalWordSetsStatusOnly : Obligations.IllegalWordSetsStatusOnly := by
  refine ⟨fun w => ?_, fun s w e hp he => ⟨none, ?_⟩⟩
  · rw [decodeCommand_eq_error_iff, z2Field_ne_zero_iff, z1Field_ne_zero_iff, opField_toNat, qdefField_eq_true_iff]
  · exact (exec_wr_illegal he s).trans (transact_of_idle hp _ _)

theorem decodeTableWord_eq_some_iff {nbits w : Nat} {i : Instr} :
    decodeTableWord nbits w = some i ↔ ∃ e, tableWord nbits w = some e ∧ decode e = .ok i := by
  cases h : tableWord nbits w with
  | none => simp [decodeTableWord, h]
  | some e => cases hd : decode e <;> simp [decodeTableWord, h, hd, Except.toOption]

/-- A table word that decodes is run by the request that delivers it, in either format. -/
theorem exec_tableRequest {nbits w : Nat} {i : Instr} (h : decodeTableWord nbits w = some i) (s : State) :
    exec (tableRequest nbits w).toInstr s = exec i s := by
  obtain ⟨e, he, hi⟩ := decodeTableWord_eq_some_iff.mp h
  by_cases hn : nbits ≤ 256
  · rw [tableRequest, if_pos hn]
    rw [tableWord, if_pos hn, Option.ite_none_right_eq_some] at he
    obtain ⟨-, he⟩ := he
    cases he
    exact exec_cmdWrite_of_decode hi s
  · rw [tableRequest, if_neg hn]
    rw [tableWord, if_neg hn, Option.ite_none_right_eq_some] at he
    obtain ⟨-, he⟩ := he
    cases he
    cases hi
    rfl

/-- Settles O8: placing makes the request the Host's next offer with nothing outstanding. -/
theorem placedTableWordRunsNext : Obligations.PlacedTableWordRunsNext := by
  intro s nbits w i h
  calc step (s.withFetchWord nbits w)
    _ = exec (tableRequest nbits w).toInstr s.release := step_of_offer (rest := s.agenda) rfl rfl
    _ = exec i s.release := exec_tableRequest h s.release

/-- Settles O10: `xorall true` is the command of no word, and is the write of the illegal word 0x103. -/
theorem commandIsTheWriteOfItsWord : Obligations.CommandIsTheWriteOfItsWord :=
  ⟨fun s _ _ h => (exec_wr_cmd h s).symm, fun s => (exec_xorall_true s).trans (exec_wr_illegal rfl s).symm⟩

end Sys2Proof.Machine
end

section
/-! PROOFS. MRD: the messages it hashes (R121, R122), the lanes of a digest (R123), and the coefficients of a row, each
a lane of one block reduced (R124 to R129); the command DROW (R132). -/

namespace Sys2Proof.Machine

/-! ### The hash messages (R121, R122) -/

/-- Settles O44: each field is 32 bytes, so that cutting every 32 bytes gives the fields back. -/
theorem hashMessagesAreFixedWidth : Obligations.HashMessagesAreFixedWidth := by
  intro hash seed stepIdx row rs b
  exact ⟨⟨be32 seed ++ be32 stepIdx ++ be32 row, by simp, by simp, by simp, by simp [List.drop_append], rfl⟩,
    ⟨be32 rs ++ be32 (BitVec.ofNat 256 b), by simp, by simp, by simp, rfl⟩⟩

/-! ### Lanes (R123) -/

/-- The low `k` lanes, each at its place, add up to the low `16 * k` bits. -/
theorem sum_lanes_eq_mod (d : Word) : ∀ k : Nat,
    ((List.range k).map fun j => (lane d j).toNat * 2 ^ (16 * j)).sum = d.toNat % 2 ^ (16 * k)
  | 0 => by simp [Nat.mod_one]
  | k + 1 => by
    have hpow : 2 ^ (16 * (k + 1)) = 2 ^ (16 * k) * 65536 := by rw [Nat.mul_succ, Nat.pow_add]
    rw [List.range_succ, List.map_append, List.sum_append, sum_lanes_eq_mod d k, hpow, Nat.mod_mul]
    simp [lane_toNat, Nat.mul_comm]

/-- Settles O45. -/
theorem laneIsShiftAndMask : Obligations.LaneIsShiftAndMask := by
  refine ⟨fun d k _ => ?_, fun d => ?_⟩
  · rw [lane_toNat, BitVec.toNat_and, BitVec.toNat_ushiftRight, Nat.shiftRight_eq_div_pow]
    exact (Nat.and_two_pow_sub_one_eq_mod _ 16).symm
  · rw [sum_lanes_eq_mod]
    exact (Nat.mod_eq_of_lt d.isLt).symm

/-! ### Rows (R124 to R129) -/

@[simp] theorem deriveRow_length (hash : List Byte → Word) (seed stepIdx row : Word) (n : Dim) (q : Modulus) :
    (deriveRow hash seed stepIdx row n q).length = n.val := by
  simp [deriveRow]

theorem deriveRow_getElem? (hash : List Byte → Word) (seed stepIdx row : Word) (n : Dim) (q : Modulus) {c : Nat}
    (hc : c < n.val) : (deriveRow hash seed stepIdx row n q)[c]? = some (coef hash seed stepIdx row c q) := by
  simp [deriveRow, hc]

/-- A row's coefficients are below its modulus (R128). -/
theorem lt_of_mem_deriveRow {hash : List Byte → Word} {seed stepIdx row : Word} {n : Dim} {q : Modulus} {a : Nat}
    (ha : a ∈ deriveRow hash seed stepIdx row n q) : a < q.val := by
  obtain ⟨c, -, rfl⟩ := List.mem_map.mp ha
  exact coef_lt hash seed stepIdx row c q

/-- Settles O46. -/
theorem deriveRowTakesLanesInOrder : Obligations.DeriveRowTakesLanesInOrder :=
  fun hash seed stepIdx row n q =>
    ⟨deriveRow_length hash seed stepIdx row n q, fun _ hc => deriveRow_getElem? hash seed stepIdx row n q hc⟩

/-- Settles O49. -/
theorem coefficientsAreBelowTheModulus : Obligations.CoefficientsAreBelowTheModulus := by
  intro hash seed stepIdx row n q a ha
  have hlt := lt_of_mem_deriveRow ha
  have hq := q.le
  exact ⟨hlt, by omega⟩

/-- Settles O50: both rows map the same coefficients over a range, and one range is the start of the other. -/
theorem rowDoesNotDependOnTheDimension : Obligations.RowDoesNotDependOnTheDimension := by
  intro hash seed stepIdx row n n' q hn
  simp only [deriveRow, ← List.map_take, List.take_range, Nat.min_eq_left hn]

/-- Settles O47: column `c` below N uses lane `c % 16` of block `c / 16`, which is below ceil(N/16). -/
theorem rowUsesOnlyItsBlocks : Obligations.RowUsesOnlyItsBlocks := by
  intro hash hash' seed stepIdx row n q hseed hlanes
  refine ⟨List.map_congr_left fun c hc => ?_, by have := n.le; omega⟩
  have hcn : c < n.val := List.mem_range.mp hc
  have hlane := hlanes (c / 16) (c % 16) (by omega) (Nat.mod_lt c (by decide)) (by omega)
  exact congrArg (fun l : Lane => l.toNat % q.val) (hseed ▸ hlane)

/-- Settles O48: a lane is below 65536, so that 65521 goes into it at most once. -/
theorem reductionAtTheGreatestAndLeastModulus : Obligations.ReductionAtTheGreatestAndLeastModulus := by
  intro hash seed stepIdx row c q l hlane
  have hcoef : coef hash seed stepIdx row c q = l.toNat % q.val := by rw [hlane]; rfl
  have hlt : l.toNat < 65536 := l.isLt
  rw [hcoef]
  refine ⟨rfl, fun hq hl => ?_, fun hq hl => ?_, fun hq => ?_⟩
  · rw [hq, Nat.mod_eq_of_lt hl]
  · rw [hq]
    omega
  · rw [hq, BitVec.getLsbD, Nat.toNat_testBit, Nat.pow_zero, Nat.div_one]

/-! ### The command DROW (R132) -/

/-- A validated command on valid parameters is accepted (R44), and the Engine's step packs its elements into `R0..R3`
and ends it with outcome OK (R45); what it leaves in the scratch is not said. -/
theorem command_completes {s : State} {c : Command} {n : Dim} {q : Modulus} (hw : c.wellFormed = true)
    (hp : s.phase = .idle) (hop : c.op ≠ .xorall) (hn : dim? s.nrows = some n)
    (hq : modulus? (s.qEff c.qdef) = some q) :
    exec c.toInstr s = .next ((s.respond none).start c) ∧
    ∃ scratch, engineStep ((s.respond none).start c) =
      .next ((({ s with status := statusOk, cur := c, rsp := none }).setScratch scratch).setResult
        (pack (Elements Config.hash s n q c.op))) := by
  refine ⟨?_, ?_⟩
  · rw [exec_toInstr hw, transact_of_idle hp, accept_of_valid (s := s.respond none) hn hq]
  · obtain ⟨scratch, hc⟩ := complete_of_params Config.hash (s := (s.respond none).start c) hop hn hq
    refine ⟨scratch, (engineStep_of_busy rfl).trans (hc.trans ?_)⟩
    rw [State.finish, ← hp]
    rfl

/-- Settles O27. -/
theorem drowCompletesWithTheRow : Obligations.DrowCompletesWithTheRow := by
  intro s qdef n q hp hn hq
  rw [← State.qEff_toNat] at hq
  obtain ⟨haccept, scratch, hcomplete⟩ := command_completes (c := ⟨.drow, qdef⟩) rfl hp (by simp)
    (dim?_eq_some.mpr hn) (modulus?_eq_some.mpr hq)
  exact ⟨_, _, _, haccept, rfl, hcomplete, rfl, rfl⟩

end Sys2Proof.Machine
end

section
/-! PROOFS. The lanes of a packed vector (R171), and the range of the result lanes, kept by every step (R128, R155). -/

namespace Sys2Proof.Machine

variable {s t : State}

/-! ### The lanes of a packed vector (R171) -/

@[simp] theorem Container.zero_word (i : Nat) : Container.zero.word i = 0#256 := by
  unfold Container.word
  split <;> rfl

/-- From index `r` on the loop of R171 adds one element to each lane in order, and leaves the lanes before `r`. -/
theorem lane_packFrom {i j : Nat} (hi : i < 4) (hj : j < 16) : ∀ (ys : List Nat) (r : Nat) (w : Container),
    r + ys.length ≤ 64 → lane ((packFrom r ys w).word i) j =
      if r ≤ 16 * i + j then lane (w.word i) j ||| BitVec.ofNat 16 (ys.getD (16 * i + j - r) 0)
      else lane (w.word i) j
  | [], r, w, _ => by simp [packFrom]
  | y :: ys, r, w, hr => by
    rw [List.length_cons] at hr
    rw [packFrom, lane_packFrom hi hj ys (r + 1) _ (by omega), lane_insert w r y i j (by omega) hi hj]
    obtain hlt | heq | hgt := Nat.lt_trichotomy (16 * i + j) r
    · rw [if_neg (by omega), if_neg (by omega), if_neg (by omega)]
    · rw [if_neg (by omega), if_pos heq.symm, if_pos heq.ge, heq, Nat.sub_self, List.getD_cons_zero]
    · have hsub : 16 * i + j - r = (16 * i + j - (r + 1)) + 1 := by omega
      rw [if_pos (Nat.succ_le_of_lt hgt), if_neg hgt.ne, if_pos hgt.le, hsub, List.getD_cons_succ]

/-- Lane `j` of word `i` holds element `16 * i + j` modulo 2^16, and 0 past the last element. -/
theorem lane_pack {ys : List Nat} (hys : ys.length ≤ 64) {i j : Nat} (hi : i < 4) (hj : j < 16) :
    lane ((pack ys).word i) j = BitVec.ofNat 16 (ys.getD (16 * i + j) 0) := by
  rw [pack, lane_packFrom hi hj ys 0 _ (by omega), if_pos (Nat.zero_le _), Container.zero_word, lane_zero,
    BitVec.zero_or, Nat.sub_zero]

/-- Packing keeps a bound on the elements. -/
theorem lane_pack_toNat_lt {ys : List Nat} {m : Nat} (hys : ys.length ≤ 64) (hm : 0 < m) (hlt : ∀ y ∈ ys, y < m)
    {i j : Nat} (hi : i < 4) (hj : j < 16) : (lane ((pack ys).word i) j).toNat < m := by
  have hget : ys.getD (16 * i + j) 0 < m := by
    rw [List.getD_eq_getElem?_getD]
    cases h : ys[16 * i + j]? with
    | none => exact hm
    | some y => exact hlt y (List.mem_of_getElem? h)
  rw [lane_pack hys hi hj, BitVec.toNat_ofNat]
  exact (Nat.mod_le _ _).trans_lt hget

/-! ### The elements a command packs -/

@[simp] theorem accumulateVec_length (hash : List Byte → Word) (x stepIdx : Word) (n : Dim) (seed : Word)
    (q : Modulus) : (accumulateVec hash x stepIdx n seed q).length = n.val := by
  simp [accumulateVec]

/-- The elements of an accumulation are below its modulus (R155). -/
theorem lt_of_mem_accumulateVec {hash : List Byte → Word} {x stepIdx : Word} {n : Dim} {seed : Word} {q : Modulus}
    {y : Nat} (hy : y ∈ accumulateVec hash x stepIdx n seed q) : y < q.val := by
  obtain ⟨r, -, rfl⟩ := List.mem_map.mp hy
  exact accumulateAt_lt hash x stepIdx n seed q r

theorem elements_length_le (hash : List Byte → Word) (s : State) (n : Dim) (q : Modulus) (op : Op) :
    (Elements hash s n q op).length ≤ 64 := by
  cases op with
  | xorall => exact Nat.zero_le _
  | _ => simpa [Elements] using n.le

theorem lt_of_mem_elements {hash : List Byte → Word} {n : Dim} {q : Modulus} {op : Op} {y : Nat}
    (hy : y ∈ Elements hash s n q op) : y < q.val := by
  cases op with
  | acc => exact lt_of_mem_accumulateVec hy
  | upd => exact lt_of_mem_accumulateVec hy
  | drow => exact lt_of_mem_deriveRow hy
  | xorall => cases hy

/-! ### The range of the result lanes -/

/-- The invariant speaks of the packed result alone. -/
theorem ResultLanesInRange.of_rVec_eq (h : ResultLanesInRange s) (ht : t.rVec = s.rVec) : ResultLanesInRange t := by
  rw [ResultLanesInRange, ht]
  exact h

theorem Effect.rVec_eq {i : Instr} (h : Effect i s t) : t.rVec = s.rVec := by
  cases h <;> simp

/-- A completion packs elements below a valid modulus, or leaves the packed result as it was. -/
theorem ResultLanesInRange.complete {hash : List Byte → Word} (h : ResultLanesInRange s)
    (hc : Machine.complete hash s = .next t) : ResultLanesInRange t := by
  obtain ⟨-, rfl⟩ | ⟨-, n, q, scratch, -, -, rfl⟩ := complete_cases hc
  · exact h.of_rVec_eq rfl
  · intro i j hi hj
    have hlt : ∀ y ∈ Elements hash s n q s.cur.op, y < 65521 := fun y hy =>
      (lt_of_mem_elements hy).trans_le q.le
    exact lane_pack_toNat_lt (elements_length_le hash s n q s.cur.op) (by decide) hlt hi hj

/-- Settles O41, move by move: only a Reset and a completion touch the packed result. -/
theorem everyStepKeepsResultLanesInRange : Obligations.EveryStepKeepsResultLanesInRange := by
  intro s t h hstep
  obtain ⟨rest, -, rfl⟩ | ⟨u, -, -, he⟩ | ⟨u, rest, -, -, he⟩ | ⟨rest, -, hc⟩ | ⟨rest, -, rfl⟩ := step_cases hstep
  · exact resultLanesInRange_reset.of_rVec_eq rfl
  · exact h.of_rVec_eq he.rVec_eq
  · exact h.of_rVec_eq he.rVec_eq
  · exact (h.of_rVec_eq (t := s.setAgenda rest) rfl).complete hc
  · exact h.of_rVec_eq rfl

end Sys2Proof.Machine
end

section
/-! PROOFS. MAC: an element of the accumulation is the sum of its row's coefficients over the columns that `x` selects
(R150), and depends on the bits of `x` below N alone (R151, R154, R155, R157); the methods of R152 and R153. -/

namespace Sys2Proof.Machine

/-! ### An element as a sum over the columns (R150) -/

section
variable (hash : List Byte → Word) (x stepIdx : Word) (n : Dim) (seed : Word) (q : Modulus)

theorem partialSum_eq_sum (row : Word) : ∀ k : Nat, partialSum hash x seed stepIdx row q k =
    ∑ c ∈ Finset.range k, if x.getLsbD c then coef hash seed stepIdx row c q else 0
  | 0 => rfl
  | k + 1 => by rw [partialSum_succ, partialSum_eq_sum row k, Finset.sum_range_succ]

theorem accumulateAt_eq_sum (r : Nat) : accumulateAt hash x stepIdx n seed q r =
    (∑ c ∈ Finset.range n.val,
      if x.getLsbD c then coef hash seed stepIdx (BitVec.ofNat 256 r) c q else 0) % q.val :=
  congrArg (· % q.val) (partialSum_eq_sum hash x stepIdx seed q (BitVec.ofNat 256 r) n.val)

theorem accumulateVec_getElem? {r : Nat} (hr : r < n.val) :
    (accumulateVec hash x stepIdx n seed q)[r]? = some (accumulateAt hash x stepIdx n seed q r) := by
  simp [accumulateVec, hr]

theorem accumulateVec_getD {r : Nat} (hr : r < n.val) :
    (accumulateVec hash x stepIdx n seed q).getD r 0 = accumulateAt hash x stepIdx n seed q r := by
  rw [List.getD_eq_getElem?_getD, accumulateVec_getElem? hash x stepIdx n seed q hr, Option.getD_some]

variable {n x}

/-- Inputs with the same bits below N have the same accumulation (R151). -/
theorem accumulateVec_congr {x' : Word} (h : ∀ c, c < n.val → x.getLsbD c = x'.getLsbD c) :
    accumulateVec hash x stepIdx n seed q = accumulateVec hash x' stepIdx n seed q := by
  refine List.map_congr_left fun r _ => ?_
  rw [accumulateAt_eq_sum, accumulateAt_eq_sum, Finset.sum_congr rfl fun c hc => by rw [h c (Finset.mem_range.mp hc)]]

/-- No bit below N selects a column: every element is the empty sum (R154). -/
theorem accumulateVec_eq_replicate_zero (h : ∀ c, c < n.val → x.getLsbD c = false) :
    accumulateVec hash x stepIdx n seed q = List.replicate n.val 0 := by
  refine List.eq_replicate_iff.mpr ⟨accumulateVec_length hash x stepIdx n seed q, fun y hy => ?_⟩
  obtain ⟨r, -, rfl⟩ := List.mem_map.mp hy
  rw [accumulateAt_eq_sum, Finset.sum_eq_zero fun c hc => by rw [h c (Finset.mem_range.mp hc)]; rfl, Nat.zero_mod]

end

/-! ### The bits of the input (R151, R154, R155, R157) -/

/-- Bit `c` has weight `2 ^ c` (R151). -/
theorem getLsbD_eq_true_iff {x : Word} {c : Nat} : x.getLsbD c = true ↔ x.toNat / 2 ^ c % 2 = 1 := by
  rw [BitVec.getLsbD, Nat.testBit_eq_decide_div_mod_eq, decide_eq_true_eq]

/-- A remainder by `2 ^ k` keeps the bits below `k`. -/
theorem getLsbD_ofNat_mod_two_pow (x : Word) {k c : Nat} (hc : c < k) :
    (BitVec.ofNat 256 (x.toNat % 2 ^ k)).getLsbD c = x.getLsbD c := by
  rw [BitVec.getLsbD_ofNat, Nat.testBit_mod_two_pow, decide_eq_true hc, Bool.true_and]
  by_cases h : c < 256
  · rw [decide_eq_true h, Bool.true_and, BitVec.getLsbD]
  · rw [decide_eq_false h, Bool.false_and, BitVec.getLsbD_of_ge x c (Nat.not_lt.mp h)]

theorem getLsbD_ofNat_two_pow (k : Nat) {i : Nat} (hi : i < 256) :
    (BitVec.ofNat 256 (2 ^ k)).getLsbD i = decide (k = i) := by
  rw [BitVec.getLsbD_ofNat, Nat.testBit_two_pow, decide_eq_true hi, Bool.true_and]

/-- Settles O51: each bit of `x` below N selects its column, and no other bit is in the sum. -/
theorem higherInputBitsAreIgnored : Obligations.HigherInputBitsAreIgnored := by
  intro hash x stepIdx n seed q
  refine ⟨fun r hr => ?_, accumulateVec_congr hash stepIdx seed q fun c hc => (getLsbD_ofNat_mod_two_pow x hc).symm⟩
  rw [accumulateVec_getElem? hash x stepIdx n seed q hr, accumulateAt_eq_sum]
  simp only [getLsbD_eq_true_iff]
  rfl

/-- Settles O54. -/
theorem outputElementsAreBelowTheModulus : Obligations.OutputElementsAreBelowTheModulus := by
  intro hash x stepIdx n seed q
  refine ⟨accumulateVec_length hash x stepIdx n seed q, fun y hy => ?_⟩
  have hlt := lt_of_mem_accumulateVec hy
  have hq := q.le
  exact ⟨hlt, by omega⟩

@[simp] theorem Container.insert_zero (w : Container) (r : Nat) : w.insert r 0 = w := by
  unfold Container.insert Container.orWord
  split <;> simp

/-- Zeros fill no lane. -/
theorem packFrom_replicate_zero (w : Container) : ∀ k r : Nat, packFrom r (List.replicate k 0) w = w
  | 0, _ => rfl
  | k + 1, r => by
    rw [List.replicate_succ, packFrom, Container.insert_zero, packFrom_replicate_zero w k (r + 1)]

theorem dim?_ofNat (n : Dim) : dim? (BitVec.ofNat 256 n.val) = some n :=
  dim?_eq_some.mpr (Nat.mod_eq_of_lt (n.le.trans_lt (by decide)))

theorem modulus?_ofNat (q : Modulus) : modulus? (BitVec.ofNat 256 q.val) = some q :=
  modulus?_eq_some.mpr (Nat.mod_eq_of_lt (q.le.trans_lt (by decide)))

/-- `accumulate` returns on valid parameters only, and then packs the accumulation (R159). -/
theorem accumulate_eq_ok_iff {hash : List Byte → Word} {x stepIdx numRows seed qw : Word} {w : Container} :
    accumulate hash x stepIdx numRows seed qw = .ok w ↔
      ∃ n q, dim? numRows = some n ∧ modulus? qw = some q ∧ pack (accumulateVec hash x stepIdx n seed q) = w := by
  unfold accumulate
  cases dim? numRows <;> cases modulus? qw <;> simp

/-- Settles O53: with no bit below N every sum is empty; for N = 1 it has the one term of row 0 and column 0. -/
theorem zeroInputGivesTheZeroVector : Obligations.ZeroInputGivesTheZeroVector := by
  intro hash x stepIdx n seed q
  refine ⟨fun hx => ?_, fun hn => ?_⟩
  · have hbits : ∀ c, c < n.val → x.getLsbD c = false := fun c hc => by
      rw [← getLsbD_ofNat_mod_two_pow x hc, hx, BitVec.getLsbD_zero]
    have hvec := accumulateVec_eq_replicate_zero hash stepIdx seed q hbits
    refine ⟨hvec, ?_⟩
    refine accumulate_eq_ok_iff.mpr ⟨n, q, dim?_ofNat n, modulus?_ofNat q, ?_⟩
    rw [hvec, pack, packFrom_replicate_zero]
    rfl
  · have hlt := coef_lt hash seed stepIdx 0 0 q
    have hat : accumulateAt hash x stepIdx n seed q 0 = if x.getLsbD 0 then coef hash seed stepIdx 0 0 q else 0 := by
      rw [accumulateAt_eq_sum, hn, Finset.sum_range_one, Nat.mod_eq_of_lt]
      · rfl
      · split
        · exact hlt
        · exact Nat.zero_lt_of_lt hlt
    rw [accumulateVec, hn, List.range_one, List.map_singleton, hat]
    rfl

/-- Inputs that select no common column select together what they select apart (R157). -/
theorem accumulateAt_or (hash : List Byte → Word) {x x' : Word} (stepIdx : Word) {n : Dim} (seed : Word)
    (q : Modulus) (r : Nat) (h : ∀ c, c < n.val → (x.getLsbD c && x'.getLsbD c) = false) :
    accumulateAt hash (x ||| x') stepIdx n seed q r =
      (accumulateAt hash x stepIdx n seed q r + accumulateAt hash x' stepIdx n seed q r) % q.val := by
  rw [accumulateAt_eq_sum, accumulateAt_eq_sum, accumulateAt_eq_sum, ← Nat.add_mod, ← Finset.sum_add_distrib]
  refine congrArg (· % q.val) (Finset.sum_congr rfl fun c hc => ?_)
  have hdisjoint := h c (Finset.mem_range.mp hc)
  rw [BitVec.getLsbD_or]
  cases hx : x.getLsbD c with
  | false => simp
  | true =>
    rw [hx, Bool.true_and] at hdisjoint
    simp [hdisjoint]

/-- A single input bit selects its own column (R157). -/
theorem accumulateAt_twoPow (hash : List Byte → Word) (stepIdx : Word) {n : Dim} (seed : Word) (q : Modulus)
    (r : Nat) {c : Nat} (hc : c < n.val) : accumulateAt hash (BitVec.ofNat 256 (2 ^ c)) stepIdx n seed q r =
      coef hash seed stepIdx (BitVec.ofNat 256 r) c q := by
  have hbit : ∀ c', c' < n.val → (BitVec.ofNat 256 (2 ^ c)).getLsbD c' = decide (c = c') := fun c' hc' =>
    getLsbD_ofNat_two_pow c (by have := n.le; omega)
  rw [accumulateAt_eq_sum, Finset.sum_eq_single_of_mem c (Finset.mem_range.mpr hc) fun c' hc' hne => ?_]
  · rw [hbit c hc, decide_eq_true rfl, if_pos rfl, Nat.mod_eq_of_lt (coef_lt ..)]
  · rw [hbit c' (Finset.mem_range.mp hc'), decide_eq_false hne.symm, if_neg Bool.false_ne_true]

/-- Settles O55, element by element. -/
theorem accumulationIsLinear : Obligations.AccumulationIsLinear := by
  intro hash stepIdx n seed q r hr
  refine ⟨fun x x' h => ?_, fun c hc => ?_⟩
  · simp only [accumulateVec_getD hash _ stepIdx n seed q hr]
    exact accumulateAt_or hash stepIdx seed q r h
  · rw [accumulateVec_getD hash _ stepIdx n seed q hr]
    exact accumulateAt_twoPow hash stepIdx seed q r hc

/-! ### The three methods of reduction (R152, R153) -/

/-- From a reduced sum on, the running sum is the whole sum reduced, and so reduced again (R152). -/
theorem runningSum_eq_mod {q : Nat} (x : Word) : ∀ (as : List Nat) (c s : Nat), s < q → (∀ a ∈ as, a < q) →
    runningSum q x c s as = (s + selectedSum x c as) % q
  | [], _, s, hs, _ => (Nat.mod_eq_of_lt hs).symm
  | a :: as, c, s, hs, has => by
    obtain ⟨ha, has⟩ := List.forall_mem_cons.mp has
    rw [runningSum, selectedSum]
    split
    · rw [condSub_add_eq_mod hs ha, runningSum_eq_mod x as _ _ (Nat.mod_lt _ (by omega)) has, Nat.mod_add_mod,
        Nat.add_assoc]
    · rw [runningSum_eq_mod x as _ _ hs has, Nat.zero_add]

/-- On columns below `q` the remainder after each addition is the conditional subtraction (R153). -/
theorem remainderSum_eq_runningSum {q : Nat} (x : Word) : ∀ (as : List Nat) (c s : Nat), s < q →
    (∀ a ∈ as, a < q) → remainderSum q x c s as = runningSum q x c s as
  | [], _, _, _, _ => rfl
  | a :: as, c, s, hs, has => by
    obtain ⟨ha, has⟩ := List.forall_mem_cons.mp has
    rw [runningSum, remainderSum, condSub_add_eq_mod hs ha]
    refine remainderSum_eq_runningSum x as _ _ ?_ has
    split
    · exact Nat.mod_lt _ (by omega)
    · exact hs

theorem selectedSum_le_sum (x : Word) : ∀ (c : Nat) (as : List Nat), selectedSum x c as ≤ as.sum
  | _, [] => Nat.le_refl 0
  | c, a :: as => by
    have ih := selectedSum_le_sum x (c + 1) as
    rw [selectedSum, List.sum_cons]
    split <;> omega

/-- Settles O52: every method keeps the selected sum reduced, and 64 columns of at most 65520 bound it. -/
theorem threeReductionMethodsAgree : Obligations.ThreeReductionMethodsAgree := by
  intro q x c as hq has
  have hrunning := runningSum_eq_mod x as c 0 hq has
  rw [Nat.zero_add] at hrunning
  refine ⟨hrunning, (remainderSum_eq_runningSum x as c 0 hq has).trans hrunning, fun k => ?_, fun hq' hlen => ?_⟩
  · rw [runningSum_eq_mod x _ c 0 hq fun a ha => has a (List.mem_of_mem_take ha)]
    exact Nat.mod_lt _ hq
  · calc selectedSum x c as
      _ ≤ as.sum := selectedSum_le_sum x c as
      _ ≤ as.length * 65520 := List.sum_le_card_nsmul as 65520 fun a ha => by have := has a ha; omega
      _ ≤ 64 * 65520 := Nat.mul_le_mul_right _ hlen

end Sys2Proof.Machine
end

section
/-! PROOFS. The command ACC (R158): on valid parameters, at the boundaries of the ranges (R145), and as the software
function `accumulate` (R159); nothing fails in the control invariant (R146). -/

namespace Sys2Proof.Machine

/-- Settles O25. -/
theorem accCompletesWithTheAccumulation : Obligations.AccCompletesWithTheAccumulation := by
  intro s qdef n q hp hn hq
  rw [← State.qEff_toNat] at hq
  obtain ⟨haccept, scratch, hcomplete⟩ := command_completes (c := ⟨.acc, qdef⟩) rfl hp (by simp)
    (dim?_eq_some.mpr hn) (modulus?_eq_some.mpr hq)
  exact ⟨_, _, _, haccept, rfl, hcomplete, rfl, rfl⟩

/-! ### The outcome of a validated command -/

/-- The only ill-formed command is one of XORALL. -/
theorem Command.wellFormed_of_ne_xorall {c : Command} (hop : c.op ≠ .xorall) : c.wellFormed = true := by
  by_contra hw
  exact hop (congrArg Command.op (Command.eq_of_wellFormed_eq_false (Bool.eq_false_of_not_eq_true hw)))

/-- No parameter error: both parameters are valid. -/
theorem exists_params_of_no_error {n q : Word} (he : (dimErr n || modErr q) = false) :
    ∃ d m, dim? n = some d ∧ modulus? q = some m := by
  rw [Bool.or_eq_false_iff, dimErr_eq, modErr_eq, Option.isNone_eq_false_iff, Option.isNone_eq_false_iff] at he
  obtain ⟨hn, hq⟩ := he
  obtain ⟨d, hd⟩ := Option.isSome_iff_exists.mp hn
  obtain ⟨m, hm⟩ := Option.isSome_iff_exists.mp hq
  exact ⟨d, m, hd, hm⟩

/-- A validated command run to its end leaves in `STATUS` its two error flags beside DONE: with none it is OK. -/
theorem runCommand_status {s : State} {c : Command} (hp : s.phase = .idle) (hop : c.op ≠ .xorall) :
    ∃ t, runCommand c s = .next t ∧ t.status = statusError (dimErr s.nrows) (modErr (s.qEff c.qdef)) := by
  have hw := Command.wellFormed_of_ne_xorall hop
  cases he : dimErr s.nrows || modErr (s.qEff c.qdef) with
  | true => exact ⟨_, runCommand_of_invalid hw hp hop he, rfl⟩
  | false =>
    obtain ⟨n, q, hn, hq⟩ := exists_params_of_no_error he
    obtain ⟨scratch, ht⟩ := runCommand_of_valid hw hp hop hn hq
    rw [Bool.or_eq_false_iff] at he
    exact ⟨_, ht, by rw [he.1, he.2]; rfl⟩

theorem State.qEff_of_params (s : State) (n q : Word) (qdef : Bool) :
    ({ s with nrows := n, q := q } : State).qEff qdef = if qdef then 65521 else q := by
  cases qdef <;> rfl

/-- The two error flags at the nine boundary pairs of R145. -/
theorem statusError_of_boundary {n q st : Word} (h : (n, q, st) ∈ ([(0, 65521, 0x06), (1, 65521, 0x02),
    (64, 65521, 0x02), (65, 65521, 0x06), (4, 0, 0x0A), (4, 1, 0x0A), (4, 2, 0x02), (4, 65521, 0x02),
    (4, 65522, 0x0A)] : List (Word × Word × Word))) : statusError (dimErr n) (modErr q) = st :=
  (List.forall_iff_forall_mem
    (p := fun b : Word × Word × Word => statusError (dimErr b.1) (modErr b.2.1) = b.2.2)).mp (by decide) (n, q, st) h

/-- Settles O30: the outcome is the two error flags. -/
theorem validationBoundaries : Obligations.ValidationBoundaries := by
  intro s op qdef n q st hp hop hmem
  obtain ⟨t, ht, hst⟩ := runCommand_status (s := { s with nrows := n, q := q }) (c := ⟨op, qdef⟩) hp hop
  rw [State.qEff_of_params, statusError_of_boundary hmem] at hst
  exact ⟨t, ht, hst⟩

/-! ### The software function (R159) -/

/-- A wrapper reports the dimension first (R144). -/
theorem wrapperError_statusError (d m : Bool) : wrapperError (statusError d m) =
    if d then some .dimension else if m then some .modulus else none := by
  revert d m; decide

/-- `accumulate` fails on an invalid parameter only, with the error kind a wrapper reads from the two flags (R144). -/
theorem accumulate_eq_error {hash : List Byte → Word} {x stepIdx numRows seed qw : Word} {e : ParamError}
    (h : accumulate hash x stepIdx numRows seed qw = .error e) :
    (dimErr numRows || modErr qw) = true ∧
      wrapperError (statusError (dimErr numRows) (modErr qw)) = some e := by
  rw [wrapperError_statusError, dimErr_eq, modErr_eq]
  unfold accumulate at h
  split at h
  · rename_i hn
    cases h
    rw [hn]
    exact ⟨rfl, rfl⟩
  · rename_i hn hq
    cases h
    rw [hn, hq]
    exact ⟨rfl, rfl⟩
  · cases h

/-- A command whose elements are those of an accumulation of `x`, run to its end, is `accumulate` of `x`. -/
theorem runCommand_is_accumulate {s : State} {c : Command} (hp : s.phase = .idle) (hop : c.op ≠ .xorall) {x : Word}
    (helements : ∀ n q, Elements Config.hash s n q c.op = accumulateVec Config.hash x s.stepIdx n s.seed q) :
    ∃ t, runCommand c s = .next t ∧ t.phase = .idle ∧
      (∀ w, accumulate Config.hash x s.stepIdx s.nrows s.seed (s.qEff c.qdef) = .ok w →
        t.status = statusOk ∧ t.rVec = w) ∧
      (∀ e, accumulate Config.hash x s.stepIdx s.nrows s.seed (s.qEff c.qdef) = .error e →
        wrapperError t.status = some e ∧ t.rVec = s.rVec) := by
  have hw := Command.wellFormed_of_ne_xorall hop
  cases hcall : accumulate Config.hash x s.stepIdx s.nrows s.seed (s.qEff c.qdef) with
  | error e =>
    obtain ⟨he, hwrapper⟩ := accumulate_eq_error hcall
    refine ⟨_, runCommand_of_invalid hw hp hop he, hp, fun w h => ?_, fun e' h => ?_⟩
    · cases h
    · cases h
      exact ⟨hwrapper, rfl⟩
  | ok w =>
    obtain ⟨n, q, hn, hq, rfl⟩ := accumulate_eq_ok_iff.mp hcall
    obtain ⟨scratch, ht⟩ := runCommand_of_valid hw hp hop hn hq
    refine ⟨_, ht, rfl, fun w' h => ?_, fun e h => ?_⟩
    · cases h
      exact ⟨rfl, congrArg pack (helements n q)⟩
    · cases h

/-- Settles O34: the elements ACC packs are those of the accumulation of `X`. -/
theorem accCommandIsAccumulate : Obligations.AccCommandIsAccumulate := fun _ qdef hp =>
  runCommand_is_accumulate (c := ⟨.acc, qdef⟩) hp (by simp) fun _ _ => rfl

/-! ### Nothing fails (R146) -/

/-- A command in progress completes with outcome OK. -/
theorem ControlInv.complete_ok {s : State} (h : ControlInv s) (hp : s.phase = .busy) :
    ∃ t, Machine.complete Config.hash s = .next t ∧ t.status = statusOk ∧ t.phase = .idle := by
  obtain ⟨t, ht⟩ := complete_of_valid Config.hash (h.paramsValid hp)
  exact ⟨t, ht, complete_outcome ht⟩

/-- Every move answers a next state: only a completion could be refused, and its parameters are valid. -/
theorem ControlInv.step_next {s : State} (h : ControlInv s) : ∃ t, step s = .next t := by
  have hm := step_move s
  generalize step s = r at hm
  cases hm with
  | reset | wait => exact ⟨_, rfl⟩
  | perform u => exact (exec_effect u.toInstr _).imp fun _ => And.left
  | offer u => exact (exec_effect u.toInstr _).imp fun _ => And.left
  | complete rest hp => exact ((h.setAgenda rest).complete_ok hp).imp fun _ => And.left

/-- Settles O42. -/
theorem safeStatesAlwaysStep : Obligations.SafeStatesAlwaysStep := fun s h =>
  ⟨h.step_next, fun hp => by rw [engineStep_of_busy hp]; exact h.complete_ok hp⟩

end Sys2Proof.Machine
end

section
/-! PROOFS. PCK: where `pack` places each element (R171, R173), and `pack` and `unpack` as inverses (R175, R176). An
element and its lane are told by one index `r`: lane `r mod 16` of word `r div 16`. -/

namespace Sys2Proof.Machine

/-! ### `pack` (R171, R173) -/

/-- Words that no element reaches stay 0 (R173). -/
theorem pack_word_eq_zero {ys : List Nat} {i : Nat} (hys : ys.length ≤ 64) (hi : i < 4)
    (hlen : (ys.length + 15) / 16 ≤ i) : (pack ys).word i = 0#256 :=
  word_ext_lanes fun j hj => by
    rw [lane_pack hys hi hj, List.getD_eq_default _ _ (by omega), lane_zero]

/-- Settles O57, from the lanes of a packed vector. -/
theorem packPlacesEachElementInItsLane : Obligations.PackPlacesEachElementInItsLane := by
  intro ys hys
  refine ⟨fun i j hi hj => ?_, fun i hi hlen => pack_word_eq_zero hys hi hlen⟩
  rw [lane_pack hys hi hj, BitVec.toNat_ofNat]

/-- `lane_pack` told by the element's index. -/
theorem lane_pack_index {ys : List Nat} (hys : ys.length ≤ 64) {r : Nat} (hr : r < 64) :
    lane ((pack ys).word (r / 16)) (r % 16) = BitVec.ofNat 16 (ys.getD r 0) := by
  rw [lane_pack hys (by omega) (Nat.mod_lt r (by decide)), Nat.div_add_mod]

/-! ### `unpack` (R175) -/

@[simp] theorem length_unpack (w : Container) (n : Nat) : (unpack w n).length = n := by
  rw [unpack, List.length_map, List.length_range]

theorem getElem_unpack {w : Container} {n r : Nat} (hr : r < (unpack w n).length) :
    (unpack w n)[r] = (lane (w.word (r / 16)) (r % 16)).toNat := by
  simp only [unpack, List.getElem_map, List.getElem_range, Config.lanesPerWord]

/-! ### Round trips (R176) -/

/-- Two containers with the same four words are equal. -/
theorem Container.eq_of_words {v w : Container} (h : ∀ i, i < 4 → v.word i = w.word i) : v = w := by
  cases v
  cases w
  rw [Container.mk.injEq]
  exact ⟨h 0 (by decide), h 1 (by decide), h 2 (by decide), h 3 (by decide)⟩

/-- A container is its 64 lanes. -/
theorem Container.eq_iff_lanes {v w : Container} :
    v = w ↔ ∀ r, r < 64 → lane (v.word (r / 16)) (r % 16) = lane (w.word (r / 16)) (r % 16) := by
  refine ⟨fun h _ _ => by rw [h], fun h => eq_of_words fun i hi => word_ext_lanes fun j hj => ?_⟩
  have hword : (16 * i + j) / 16 = i := by omega
  have hlane : (16 * i + j) % 16 = j := by omega
  simpa only [hword, hlane] using h (16 * i + j) (by omega)

/-- Unpacking gives back elements that the mask of R174 leaves as they are. -/
theorem unpack_pack {ys : List Nat} (hys : ys.length ≤ 64) (hlt : ∀ y ∈ ys, y < 2 ^ 16) :
    unpack (pack ys) ys.length = ys := by
  refine List.ext_getElem (length_unpack _ _) fun r hr hr' => ?_
  rw [getElem_unpack, lane_pack_index hys (by omega), List.getD_eq_getElem _ _ hr', BitVec.toNat_ofNat,
    Nat.mod_eq_of_lt (hlt _ (List.getElem_mem hr'))]

/-- Packing the first `n` lanes keeps them and clears the others. -/
theorem lane_pack_unpack (w : Container) {n r : Nat} (hn : n ≤ 64) (hr : r < 64) :
    lane ((pack (unpack w n)).word (r / 16)) (r % 16) = if r < n then lane (w.word (r / 16)) (r % 16) else 0#16 := by
  rw [lane_pack_index (by rwa [length_unpack]) hr]
  split
  case isTrue h =>
    rw [List.getD_eq_getElem _ _ (by rwa [length_unpack]), getElem_unpack, BitVec.ofNat_toNat, BitVec.setWidth_eq]
  case isFalse h =>
    rw [List.getD_eq_default _ _ (by rw [length_unpack]; omega)]

/-- Packing the first `n` lanes gives the container back exactly when the lanes from `n` on are 0. -/
theorem pack_unpack_eq_iff (w : Container) {n : Nat} (hn : n ≤ 64) :
    pack (unpack w n) = w ↔ ∀ r, n ≤ r → r < 64 → lane (w.word (r / 16)) (r % 16) = 0#16 := by
  rw [Container.eq_iff_lanes]
  refine ⟨fun h r hnr hr => ?_, fun h r hr => ?_⟩
  · rw [← h r hr, lane_pack_unpack w hn hr, if_neg (by omega)]
  · rw [lane_pack_unpack w hn hr]
    split
    case isTrue => rfl
    case isFalse hnr => exact (h r (by omega) hr).symm

/-- Settles O58: at N = 64 no lane is left to be 0. -/
theorem packUnpackRoundTrip : Obligations.PackUnpackRoundTrip :=
  ⟨fun _ => unpack_pack, fun w => (pack_unpack_eq_iff w le_rfl).mpr fun _ hle hlt => absurd hlt hle.not_gt,
    fun w _ => pack_unpack_eq_iff w⟩

end Sys2Proof.Machine
end

section
/-! PROOFS. XRC, the XOR combiner (R185 to R187), and the command XORALL (R188). -/

namespace Sys2Proof.Machine

/-! ### `combine` (R186, R187) -/

theorem combine_getLsbD (w : Container) (i : Nat) : (combine w).getLsbD i =
    ((w.w0.getLsbD i ^^ w.w1.getLsbD i) ^^ (w.w2.getLsbD i ^^ w.w3.getLsbD i)) := by
  rw [combine, BitVec.getLsbD_xor, BitVec.getLsbD_xor, BitVec.getLsbD_xor, Bool.xor_assoc]

theorem lane_combine (w : Container) (j : Nat) :
    lane (combine w) j = lane w.w0 j ^^^ lane w.w1 j ^^^ lane w.w2 j ^^^ lane w.w3 j := by
  rw [combine, lane_xor, lane_xor, lane_xor]

theorem combine_eq_foldl (w : Container) : combine w = [w.w0, w.w1, w.w2, w.w3].foldl (· ^^^ ·) 0 :=
  congrArg (· ^^^ w.w1 ^^^ w.w2 ^^^ w.w3) BitVec.zero_xor.symm

/-- XOR is commutative and associative, so the order of the words does not matter. -/
theorem combine_eq_foldl_of_perm {w : Container} {ws : List Word} (h : ws.Perm [w.w0, w.w1, w.w2, w.w3]) :
    combine w = ws.foldl (· ^^^ ·) 0 :=
  (combine_eq_foldl w).trans (h.foldl_op_eq (op := fun a b : Word => a ^^^ b)).symm

theorem combine_single (w : Word) : combine ⟨w, 0, 0, 0⟩ = w := by
  simp only [combine, BitVec.ofNat_eq_ofNat, BitVec.xor_zero]

theorem combine_pairs (v w : Word) : combine ⟨w, w, v, v⟩ = 0 := by
  simp only [combine, BitVec.xor_self, BitVec.zero_xor, BitVec.ofNat_eq_ofNat]

/-- Settles O59: two equal words cancel whatever they are, so the value does not tell the containers apart. -/
theorem combineIsTheXorOfTheWords : Obligations.CombineIsTheXorOfTheWords :=
  ⟨combine_getLsbD, lane_combine, fun _ _ => combine_eq_foldl_of_perm, fun v w => ⟨combine_single w, combine_pairs v w⟩,
    ⟨0, 0, 0, 0⟩, ⟨1, 1, 0, 0⟩, by decide, (combine_pairs 0 0).trans (combine_pairs 0 1).symm⟩

/-! ### The command XORALL (R188) -/

/-- XORALL is accepted whatever the parameters hold (R44). -/
theorem exec_xorall_of_idle {s : State} (hp : s.phase = .idle) :
    exec (.xorall false) s = .next ((s.respond none).start ⟨.xorall, false⟩) :=
  (exec_toInstr (c := ⟨.xorall, false⟩) rfl s).trans (transact_of_idle hp _ _)

/-- Settles O28: the completion needs no parameter, and the IDLE it ends in is the phase of the state before. -/
theorem xorallCompletesWithTheXor : Obligations.XorallCompletesWithTheXor := by
  intro s hp
  refine ⟨_, exec_xorall_of_idle hp, rfl, ?_⟩
  rw [engineStep_of_busy rfl, complete_of_xorall Config.hash rfl, State.finish, ← hp]
  rfl

end Sys2Proof.Machine
end

section
/-! PROOFS. The command UPD (R198): on valid parameters, as the software function `update` (R196), and as an ACC of the
XOR (R197). -/

namespace Sys2Proof.Machine

/-- Settles O26. -/
theorem updCompletesWithTheUpdate : Obligations.UpdCompletesWithTheUpdate := by
  intro s qdef n q hp hn hq
  rw [← State.qEff_toNat] at hq
  obtain ⟨haccept, scratch, hcomplete⟩ := command_completes (c := ⟨.upd, qdef⟩) rfl hp (by simp)
    (dim?_eq_some.mpr hn) (modulus?_eq_some.mpr hq)
  exact ⟨_, _, _, haccept, rfl, hcomplete, rfl, rfl⟩

/-- Settles O35: the elements UPD packs are those of the accumulation of the XOR, which is what `update` returns. -/
theorem updCommandIsUpdate : Obligations.UpdCommandIsUpdate := fun s qdef hp =>
  runCommand_is_accumulate (c := ⟨.upd, qdef⟩) (x := s.combined) hp (by simp) fun _ _ => rfl

/-- Validated commands on the same parameters, with the same elements to pack and the same packed result before, end
with the same packed result and `STATUS`. -/
theorem runCommand_rVec_status_congr {s s' : State} {c c' : Command} (hp : s.phase = .idle) (hp' : s'.phase = .idle)
    (hop : c.op ≠ .xorall) (hop' : c'.op ≠ .xorall) (hnrows : s'.nrows = s.nrows)
    (hqEff : s'.qEff c'.qdef = s.qEff c.qdef) (hrVec : s'.rVec = s.rVec)
    (helements : ∀ n q, Elements Config.hash s n q c.op = Elements Config.hash s' n q c'.op) :
    ∃ t u, runCommand c s = .next t ∧ runCommand c' s' = .next u ∧ t.rVec = u.rVec ∧ t.status = u.status := by
  have hw := Command.wellFormed_of_ne_xorall hop
  have hw' := Command.wellFormed_of_ne_xorall hop'
  cases he : dimErr s.nrows || modErr (s.qEff c.qdef) with
  | true =>
    have hu := runCommand_of_invalid hw' hp' hop' (by rw [hnrows, hqEff, he])
    rw [hnrows, hqEff] at hu
    exact ⟨_, _, runCommand_of_invalid hw hp hop he, hu, hrVec.symm, rfl⟩
  | false =>
    obtain ⟨n, q, hn, hq⟩ := exists_params_of_no_error he
    obtain ⟨scratch, ht⟩ := runCommand_of_valid hw hp hop hn hq
    obtain ⟨scratch', hu⟩ := runCommand_of_valid hw' hp' hop' (hnrows ▸ hn) (hqEff ▸ hq)
    refine ⟨_, _, ht, hu, ?_, ?_⟩
    · rw [State.finish_rVec, State.finish_rVec, State.setResult_rVec, State.setResult_rVec, helements]
    · rw [State.finish_status, State.finish_status]

/-- Settles O36: `update` is that `accumulate`, and ACC packs the same elements once `X` holds the XOR. -/
theorem updateIsAccumulateOfTheXor : Obligations.UpdateIsAccumulateOfTheXor :=
  ⟨fun _ _ _ _ _ _ _ => rfl, fun s qdef hp =>
    runCommand_rVec_status_congr (c := ⟨.upd, qdef⟩) (c' := ⟨.acc, qdef⟩) (s' := { s with x := s.combined }) hp hp
      (by simp) (by simp) rfl rfl rfl fun _ _ => rfl⟩

end Sys2Proof.Machine
end

section
/-! PROOFS. The two parameter errors (R212, R213): what an invalid command leaves, and its flags in `STATUS` (R144). -/

namespace Sys2Proof.Machine

/-- The bits of `STATUS` after a parameter error: DONE, each error its own bit, BUSY and ERR_ILL clear (R144). -/
theorem statusError_bits (d m : Bool) : (statusError d m).getLsbD 0 = false ∧ (statusError d m).getLsbD 1 = true ∧
    (statusError d m).getLsbD 2 = d ∧ (statusError d m).getLsbD 3 = m ∧ (statusError d m).getLsbD 4 = false := by
  revert d m; decide

/-- The default modulus is in range, so that only a modulus from `Q` can be an error (R43, R143). -/
theorem modErr_qEff_iff_q {s : State} {qdef : Bool} :
    modErr (s.qEff qdef) = true ↔ qdef = false ∧ (s.q.toNat < 2 ∨ s.q.toNat > 65521) := by
  rw [modErr_qEff_iff]
  cases qdef <;> simp

/-- In IDLE a command with an invalid parameter ends at once with its error flags in `STATUS` (R44). -/
theorem exec_toInstr_of_invalid {s : State} {c : Command} (hp : s.phase = .idle) (hop : c.op ≠ .xorall)
    (he : (dimErr s.nrows || modErr (s.qEff c.qdef)) = true) :
    exec c.toInstr s = .next ((s.respond none).raise (statusError (dimErr s.nrows) (modErr (s.qEff c.qdef)))) := by
  rw [exec_toInstr (Command.wellFormed_of_ne_xorall hop), transact_of_idle hp,
    accept_of_invalid (s := s.respond none) hop he, State.respond_nrows, State.respond_qEff]

/-- Settles O29: the two ranges are the two error flags, and the flags are the bits of `STATUS`. -/
theorem parameterErrorsWriteStatusOnly : Obligations.ParameterErrorsWriteStatusOnly := by
  intro s c hp hop he
  rw [← dimErr_iff, ← modErr_qEff_iff_q] at he ⊢
  obtain ⟨hbusy, hdone, hdim, hmod, hill⟩ := statusError_bits (dimErr s.nrows) (modErr (s.qEff c.qdef))
  exact ⟨_, exec_toInstr_of_invalid hp hop (Bool.or_eq_true_iff.mpr he), rfl, hdone, hbusy, hill,
    Bool.eq_iff_iff.mp hdim, Bool.eq_iff_iff.mp hmod⟩

end Sys2Proof.Machine
end

section
/-! PROOFS. A command under way: how a step can end it (R241, R249), and an operand write that comes too late for it
(R247). -/

namespace Sys2Proof.Machine

variable {s t : State} {hash : List Byte → Word}

/-- What a step of a BUSY block can do: end the command, by a Reset or with outcome OK, or take one offer of the Host
from the agenda and stay BUSY (R45, R64, R240). -/
theorem step_cases_of_busy (hp : s.phase = .busy) (h : step s = .next t) :
    (t.phase = .idle ∧ (s.agenda.head? = some .reset ∨ t.status = statusOk)) ∨
    (t.phase = .busy ∧ ∃ u, s.agenda = .host u :: t.agenda) := by
  obtain ⟨rest, ha, rfl⟩ | ⟨u, hi, -⟩ | ⟨u, rest, -, ha, he⟩ | ⟨rest, -, hc⟩ | ⟨rest, hi, -⟩ := step_cases h
  · exact .inl ⟨rfl, .inl (by rw [ha]; rfl)⟩
  · rw [hp] at hi; cases hi
  · obtain ⟨-, hphase, -⟩ := he.control_eq_of_busy hp
    exact .inr ⟨hphase.trans hp, u, by rw [he.agenda_eq]; exact ha⟩
  · obtain ⟨hs, hi⟩ := complete_outcome hc
    exact .inl ⟨hi, .inr hs⟩
  · rw [hp] at hi; cases hi

/-- Settles O12: a step that does not end the command uses up one turn of the agenda. -/
theorem busyEndsWithinTheAgenda : Obligations.BusyEndsWithinTheAgenda := by
  intro s h hp
  obtain ⟨t, ht⟩ := h.step_next
  obtain ⟨hi, -⟩ | ⟨hb, u, ha⟩ := step_cases_of_busy hp ht
  · exact ⟨1, t, by omega, core_run_succ ht 0, hi⟩
  · obtain ⟨k, v, hk, hrun, hv⟩ := busyEndsWithinTheAgenda t (everyStepKeepsTheControlInvariant s t h ht) hb
    exact ⟨k + 1, v, by rw [ha, List.length_cons]; omega, (core_run_succ ht k).trans hrun, hv⟩
termination_by s => s.agenda.length
decreasing_by simp [ha]

/-- After a Reset event every address reads as in the reset state (R46). -/
theorem State.resetEvent_regRead (s : State) (addr : RegAddr) : s.resetEvent.regRead addr = State.reset.regRead addr :=
  rfl

/-- Settles O14: the state after the Reset is the reset state, but for the agenda. -/
theorem resetAbandonsTheCommand : Obligations.ResetAbandonsTheCommand := by
  refine ⟨fun s rest _ ha => ⟨_, step_of_reset ha, rfl, rfl, engineStep_of_idle rfl, fun _ => rfl, fun addr haddr => ?_⟩,
    fun s t hp h hi => ?_⟩
  · have hq : addr ≠ 0x03 := by rintro rfl; revert haddr; decide
    rw [exec_rd_of_accepted (.inl rfl), State.resetEvent_regRead, regRead_reset, if_neg hq]
    rfl
  · obtain ⟨-, hend⟩ | ⟨hb, -⟩ := step_cases_of_busy hp h
    · exact hend
    · rw [hb] at hi; cases hi

/-- A completion neither reads nor changes the port and the agenda: it is the same with a transaction held and other
turns to come. -/
theorem complete_hold_setAgenda (h : complete hash s = .next t) (u : Request) (as : List Turn) :
    complete hash ((s.hold u).setAgenda as) = .next ((t.hold u).setAgenda as) := by
  unfold complete at h ⊢
  simp only [State.setAgenda_cur, State.hold_cur]
  cases hop : s.cur.op with
  | xorall => simp only [hop] at h; cases h; rfl
  | _ =>
    simp only [hop] at h
    obtain ⟨n, q, hn, hq, rfl⟩ := withParams_next h
    exact withParams_of_valid (s := (s.hold u).setAgenda as) hn hq _

/-- An operand write held by an IDLE block is performed in the next step, unless a Reset comes: it stores its word and
leaves the results (R64, R67). -/
theorem step_of_held_operand_write {o : OperandReg} {v : Word} (hp : s.phase = .idle)
    (hh : s.held = some ⟨true, o.addr, v⟩) (hr : s.agenda.head? ≠ some .reset) :
    ∃ t, step s = .next t ∧ t.operand o = v ∧ ∀ r, t.result r = s.result r := by
  obtain ⟨t, ht, ho, -⟩ := operandWriteStoresTheWord s.release o v hp
  exact ⟨t, (step_of_held hh hr).trans ((heldTurn_of_idle hp _).trans ht), ho, (effect_of_exec ht).result_eq⟩

/-- Settles O39: the write is held, the command completes as it would have without it, and then the write is
performed. -/
theorem operandWriteAfterCommandIsLate : Obligations.OperandWriteAfterCommandIsLate := by
  intro s o v rest h hp hh ha hr
  obtain ⟨u, hu, -, hi⟩ := h.complete_ok hp
  have hheld : step s = .next ((s.setAgenda (.engine :: rest)).hold ⟨true, o.addr, v⟩) :=
    (step_of_offer hh ha).trans (exec_wr_of_busy (s := s.setAgenda (.engine :: rest)) hp o.addr v)
  have hcomplete : step ((s.setAgenda (.engine :: rest)).hold ⟨true, o.addr, v⟩) =
      .next ((u.hold ⟨true, o.addr, v⟩).setAgenda rest) :=
    (step_of_busy_engine (s := (s.setAgenda (.engine :: rest)).hold _) hp rfl).trans (complete_hold_setAgenda hu _ rest)
  obtain ⟨t, ht, hoperand, hresult⟩ :=
    step_of_held_operand_write (s := (u.hold ⟨true, o.addr, v⟩).setAgenda rest) hi rfl hr
  refine ⟨_, _, t, hheld, fun _ => rfl, hp, hcomplete, hi, by simpa using complete_operand hu, fun r u' hu' => ?_,
    ht, hoperand, hresult⟩
  cases hu.symm.trans hu'
  rfl

end Sys2Proof.Machine
end
